-- ==== Sys2Proof/Word.lean ====
section
/-! DEFINITION. The value types of MBCRC: bytes, 16-bit halves and 32-bit words (spec/00_scope.md R7, R8). -/

namespace Sys2Proof

/-- One byte: an FBUF byte, SLAVE_ID, the data byte of CRC_BYTE (R7, R27). -/
abbrev Byte := BitVec 8

/-- A 16-bit value: CRC, DATA, LEN, one Modbus register (R7, R11). -/
abbrev Half := BitVec 16

/-- A 32-bit value: a command word, RESULT, the value of a register access (R7). -/
abbrev Word := BitVec 32

end Sys2Proof
end

