-- ==== Sys2Proof/Syntax.lean ====
section
/-! DEFINITION. The commands of MBCRC, one constructor per row of spec/opcode_table.json, in the assembler form of
spec/30_encoding.md R68. Operands are the natural numbers an assembler reads; that each fits its field is the check
of WellFormed.lean (R68: an operand that does not fit is an assembly error). -/

namespace Sys2Proof

/-- The nine commands (R63). `a` is an FBUF base index, `n` a byte length, `b` a data byte. -/
inductive Instr where
  /-- CRC_INIT (spec/40_crc.md R85). -/
  | crcInit
  /-- CRC_BYTE b (R86). -/
  | crcByte (b : Nat)
  /-- CRC_BUF a, n (R87). -/
  | crcBuf (a n : Nat)
  /-- CRC_ACC a, n (R88). -/
  | crcAcc (a n : Nat)
  /-- CRC_APPEND a, n (R89). -/
  | crcAppend (a n : Nat)
  /-- FRAME_CHECK a, n (R90). -/
  | frameCheck (a n : Nat)
  /-- REG_TO_U16 a (spec/41_codec.md R111). -/
  | regToU16 (a : Nat)
  /-- U16_TO_REG a (R112). -/
  | u16ToReg (a : Nat)
  /-- F32_WORD_SWAP a (R113). -/
  | f32WordSwap (a : Nat)
deriving DecidableEq, Repr

end Sys2Proof
end

