-- ==== Sys2Proof/WellFormed.lean ====
section
/-! DEFINITION. Which commands an assembler accepts: every operand fits its field of format F0
(spec/30_encoding.md R61, R62, R68). -/

namespace Sys2Proof

/-- An index or a length fits the 12-bit fields A and B: 0 .. 4095 (R62). -/
abbrev fitsField (n : Nat) : Prop := n ≤ 4095

/-- A data byte fits B[7:0]: 0 .. 255 (R62). -/
abbrev fitsByte (b : Nat) : Prop := b ≤ 255

/-- "An operand that does not fit its field (a or n above 4095, b above 255) is an assembly error" (R68). -/
def Instr.wf : Instr → Bool
  | .crcInit => true
  | .crcByte b => decide (fitsByte b)
  | .crcBuf a n => decide (fitsField a ∧ fitsField n)
  | .crcAcc a n => decide (fitsField a ∧ fitsField n)
  | .crcAppend a n => decide (fitsField a ∧ fitsField n)
  | .frameCheck a n => decide (fitsField a ∧ fitsField n)
  | .regToU16 a => decide (fitsField a)
  | .u16ToReg a => decide (fitsField a)
  | .f32WordSwap a => decide (fitsField a)

end Sys2Proof
end

