-- ==== Sys2Proof/Decode.lean ====
section
/-! DEFINITION. The command decoder (spec/30_encoding.md R60 to R67, steps 1 and 2), total on every 32-bit word, and
after it the encoder, written from the same format F0. -/

namespace Sys2Proof

/-! ## Decoding -/

/-- Why a word is no command: the two decode errors of R66. -/
inductive DecodeError where
  /-- OP is not one of the nine opcodes (R64). -/
  | illegalOpcode
  /-- A field that R65 reserves is not zero. -/
  | reservedField
deriving DecidableEq, Repr

/-- The nine rows of the opcode map (R63), before their operands are read. -/
inductive Opcode where
  | crcInit | crcByte | crcBuf | crcAcc | crcAppend | frameCheck | regToU16 | u16ToReg | f32WordSwap
deriving DecidableEq, Repr

/-- OP, bits [31:24] of the command word (R61). -/
def fieldOp (w : Word) : Byte := w.extractLsb' 24 8

/-- A, bits [23:12] of the command word, as a natural number (R61, R62). -/
def fieldA (w : Word) : Nat := (w.extractLsb' 12 12).toNat

/-- B, bits [11:0] of the command word, as a natural number (R61, R62). -/
def fieldB (w : Word) : Nat := (w.extractLsb' 0 12).toNat

/-- B[7:0], the data byte of CRC_BYTE (R62). -/
def fieldByte (w : Word) : Nat := (w.extractLsb' 0 8).toNat

/-- B[11:8], which CRC_BYTE reserves (R65). -/
def fieldByteReserved (w : Word) : Nat := (w.extractLsb' 8 4).toNat

/-- The opcode map of R63; `none` for the 247 illegal values of R64. -/
def opcodeOf (op : Byte) : Option Opcode :=
  if op = 0x01 then some .crcInit
  else if op = 0x02 then some .crcByte
  else if op = 0x03 then some .crcBuf
  else if op = 0x04 then some .crcAcc
  else if op = 0x05 then some .crcAppend
  else if op = 0x06 then some .frameCheck
  else if op = 0x10 then some .regToU16
  else if op = 0x11 then some .u16ToReg
  else if op = 0x12 then some .f32WordSwap
  else none

/-- Are the fields that R65 reserves for this opcode zero? -/
def reservedClear (op : Opcode) (w : Word) : Bool :=
  match op with
  | .crcInit => fieldA w == 0 && fieldB w == 0
  | .crcByte => fieldA w == 0 && fieldByteReserved w == 0
  | .crcBuf | .crcAcc | .crcAppend | .frameCheck => true
  | .regToU16 | .u16ToReg | .f32WordSwap => fieldB w == 0

/-- The operands of R62, put beside their opcode. -/
def withOperands (op : Opcode) (w : Word) : Instr :=
  match op with
  | .crcInit => .crcInit
  | .crcByte => .crcByte (fieldByte w)
  | .crcBuf => .crcBuf (fieldA w) (fieldB w)
  | .crcAcc => .crcAcc (fieldA w) (fieldB w)
  | .crcAppend => .crcAppend (fieldA w) (fieldB w)
  | .frameCheck => .frameCheck (fieldA w) (fieldB w)
  | .regToU16 => .regToU16 (fieldA w)
  | .u16ToReg => .u16ToReg (fieldA w)
  | .f32WordSwap => .f32WordSwap (fieldA w)

/-- The decoder: step 1 (the opcode) and step 2 (the reserved fields) of R67, in that order.
Total: every word is one of the nine commands or one of the two errors (R66). -/
def decode (w : Word) : Except DecodeError Instr :=
  match opcodeOf (fieldOp w) with
  | none => .error .illegalOpcode
  | some op => if reservedClear op w then .ok (withOperands op w) else .error .reservedField

/-! ## Encoding -/

/-- Format F0, most significant bit first: OP, A, B (R61). -/
def formatF0 (op : Byte) (a b : BitVec 12) : Word := op ++ a ++ b

/-- The command word of a command, the reserved fields zero (R61, R63, R68). -/
def encode : Instr → Word
  | .crcInit => formatF0 0x01 0 0
  | .crcByte b => formatF0 0x02 0 (BitVec.ofNat 12 b)
  | .crcBuf a n => formatF0 0x03 (BitVec.ofNat 12 a) (BitVec.ofNat 12 n)
  | .crcAcc a n => formatF0 0x04 (BitVec.ofNat 12 a) (BitVec.ofNat 12 n)
  | .crcAppend a n => formatF0 0x05 (BitVec.ofNat 12 a) (BitVec.ofNat 12 n)
  | .frameCheck a n => formatF0 0x06 (BitVec.ofNat 12 a) (BitVec.ofNat 12 n)
  | .regToU16 a => formatF0 0x10 (BitVec.ofNat 12 a) 0
  | .u16ToReg a => formatF0 0x11 (BitVec.ofNat 12 a) 0
  | .f32WordSwap a => formatF0 0x12 (BitVec.ofNat 12 a) 0

/-! ## The host's view of the opcode table -/

/-- The command word whose low `nbits` bits are those of `w` and whose other bits are zero. -/
def tableWord (nbits w : Nat) : Word := BitVec.ofNat 32 (w % 2 ^ nbits)

/-- The command the decoder reads from an opcode-table word (bit 0 is bit 0 of the command word, R8). -/
def decodeTableWord (nbits w : Nat) : Option Instr :=
  match decode (tableWord nbits w) with
  | .ok i => some i
  | .error _ => none

end Sys2Proof
end

