-- ==== Sys2Proof/Config.lean ====
section
/-! DEFINITION. The parameters an implementation fixes (spec/00_scope.md R7, spec/93_implementation_defined.md I5 to I7).
They are model arguments: a state carries them (`State.params`) and no step changes them, so a statement about every
state is a statement about every block the spec allows. -/

namespace Sys2Proof

/-- Which 16-bit half of a 4-byte float comes first in FBUF (R7, R113). -/
inductive WordOrder where
  | lowWordFirst
  | highWordFirst
deriving DecidableEq, Repr

/-- The parameters of R7 that the source does not fix. -/
structure Params where
  /-- N_BUF, the size of FBUF in bytes. -/
  nBuf : Nat
  /-- BASE, the bus address of the block's window. -/
  base : Nat
  /-- F32_WORD_ORDER. -/
  wordOrder : WordOrder
deriving DecidableEq, Repr

/-- The limits R7 sets: 8 ≤ N_BUF ≤ 4096, and BASE a multiple of 0x2000. -/
abbrev Params.Legal (p : Params) : Prop :=
  8 ≤ p.nBuf ∧ p.nBuf ≤ 4096 ∧ p.base % 0x2000 = 0

/-- The parameters of the block that `State.reset` describes: the spec's default N_BUF (D7) and word order (D19).
DESIGN CHOICE (log entry 2): BASE = 0, since the spec leaves it OPEN; unsafe only for a claim about BASE itself. -/
def Params.default : Params := { nBuf := 256, base := 0, wordOrder := .lowWordFirst }

end Sys2Proof
end

