-- ==== Sys2Proof/Machine/State.lean ====
section
/-! DEFINITION. The state of MBCRC and of the host side around it, as plain data; the reasons a step can stop; the
state after reset (spec/10_state.md, spec/70_reset_and_hazards.md R150). -/

namespace Sys2Proof.Machine

/-! ## STATUS (R28) -/

/-- STATUS.CHK, bits [1:0]: 0 PASS, 1 NOT_ADDRESSED, 2 INVALID, 3 NONE (R28). -/
inductive Chk where
  | pass
  | notAddressed
  | invalid
  /-- NONE: no frame checked since reset. -/
  | unchecked
deriving DecidableEq, Repr

/-- STATUS.CAUSE, bits [3:2]: 0 none, 1 TOO_SHORT, 2 WRONG_ID, 3 CRC_MISMATCH (R28). -/
inductive Cause where
  | noCause
  | tooShort
  | wrongId
  | crcMismatch
deriving DecidableEq, Repr

/-- STATUS.ERRCODE, bits [7:5]: 0 none, 1 ILLEGAL_OPCODE, 2 RESERVED_FIELD, 3 OUT_OF_BOUNDS (R28, R131). The values
4 to 7 are never produced and have no constructor (log entry 11). -/
inductive ErrCode where
  | noError
  | illegalOpcode
  | reservedField
  | outOfBounds
deriving DecidableEq, Repr

/-- STATUS, field by field (R28). `Status.bits` in Flags.lean is the 8-bit register the host reads. -/
structure Status where
  chk : Chk
  cause : Cause
  err : Bool
  errcode : ErrCode
deriving DecidableEq, Repr

/-! ## FBUF (R27) -/

/-- FBUF as a list of (index, byte), indices strictly rising; an index that no write has reached is not listed. -/
abbrev Memory := List Host.Cell

/-- What an unlisted index reads as: no value. A byte no write has reached since reset has none (R55); reading it
faults, the treatment 93_implementation_defined.md I1 recommends. DESIGN CHOICE (log entry 3); safe. -/
def unlistedByte : Option Byte := none

/-- The canonical form: indices strictly rising. (An unlisted index has no value, so no entry can equal it.) -/
abbrev Memory.wf (m : Memory) : Prop := m.Pairwise (fun x y => x.1 < y.1)

/-! ## The host side -/

/-- One host bus access (R10, R42): its bus address and its width in bits; a write also carries a value. An 8-bit
write's value stands in bits [7:0]. DESIGN CHOICE (log entries 10 and 13); safe. -/
inductive HostAccess where
  | read (addr width : Nat)
  | write (addr width : Nat) (value : Word)
  /-- `f | mask`, f the value the read before it returned: the write half of a host-side read-modify-write, which is
  two separate accesses (R50, R69). -/
  | writeReadOr (addr width : Nat) (mask : Word)
deriving DecidableEq, Repr

/-- What the outside does to the block, one at a time. DESIGN CHOICE (log entries 1, 4 and 8); safe. -/
inductive Event where
  /-- A host access, issued by the numbered host context (R48, R54). -/
  | access (context : Nat) (a : HostAccess)
  /-- The software hands the block over to the numbered context: the serialisation R54 asks of the caller. -/
  | handover (context : Nat)
  /-- The platform asserts reset (R150). -/
  | reset
deriving DecidableEq, Repr

/-- What the bus carried back to the context that holds the block, for its last access. DESIGN CHOICE (log entry 9);
safe. -/
inductive Reply where
  /-- No access yet. -/
  | idle
  /-- The last access was a write. -/
  | written
  /-- The last access was a read of this value. -/
  | data (v : Word)
deriving DecidableEq, Repr

/-! ## The state -/

/-- The whole state: the seven items of R20, the parameters of R7, and the model's own host side. -/
structure State where
  /-- CRC, the accumulator (R21). -/
  crc : Half
  /-- DATA, the operand of U16_TO_REG (R23). -/
  data : Half
  /-- RESULT, the output of REG_TO_U16 and F32_WORD_SWAP (R24). -/
  result : Word
  /-- SLAVE_ID, the identity FRAME_CHECK compares (R25). -/
  slaveId : Byte
  /-- LEN, the frame length CRC_APPEND produced (R26). -/
  len : Half
  /-- STATUS (R28). -/
  status : Status
  /-- FBUF (R27). -/
  fbuf : Memory
  /-- N_BUF, BASE and F32_WORD_ORDER: constants (R7). -/
  params : Params
  /-- Model's own: what the outside still does, the next one first. -/
  events : List Event
  /-- Model's own: what the bus carried back for the last access. -/
  reply : Reply
  /-- Model's own: the host context that holds the block. -/
  context : Nat
deriving DecidableEq, Repr

/-- Why a step has no outcome. -/
inductive Fault where
  /-- Raised by a command or a host read that reads an FBUF byte no write has reached since reset (R55, I1); it names
  the first such index. Safe: the hardware reads some byte and goes on. -/
  | unwrittenByte (index : Nat)
  /-- Raised by a host access in the window that R43 does not admit: BusError(off, w) of R134. Safe: what the host
  does next is the platform's concern (I4). -/
  | busError (off width : Nat)
deriving DecidableEq, Repr

/-- What the model gives no meaning. -/
inductive Refusal where
  /-- Raised by no meaning: for a command that has none yet. No arm of exec uses it now. Safe. -/
  | notModelled (mnemonic : String)
  /-- Raised by a host access of a context that does not hold the block: R54 says a model refuses interleaved use by
  two contexts (I2). Safe. -/
  | interleavedUse (context : Nat)
  /-- Raised by a host access outside the window BASE .. BASE+0x1FFF: it reaches another device, of which the spec
  says nothing (R40). Safe (log entry 7). -/
  | outsideWindow (addr : Nat)
  /-- Raised by a host write of `f | mask` (R69) that follows no read, so that there is no f. Safe (log entry 13). -/
  | noReadValue
deriving DecidableEq, Repr

/-- The outcome of a command, an access or a step. -/
abbrev Result := Host.Outcome State Fault Refusal

/-- The state right after reset: the table of R150, with the default parameters (log entry 2) and nothing pending
(log entry 1). -/
def State.reset : State where
  crc := 0xFFFF
  data := 0x0000
  result := 0x00000000
  slaveId := 0x00
  len := 0x0000
  status := { chk := .unchecked, cause := .noCause, err := false, errcode := .noError }
  fbuf := []
  params := Params.default
  events := []
  reply := .idle
  context := 0

end Sys2Proof.Machine
end

