-- ==== Sys2Proof/Machine/Flags.lean ====
section
/-! DEFINITION. STATUS: the bits of its fields, and every way a command writes them
(spec/10_state.md R28, spec/60_exceptions.md R131, R132). -/

namespace Sys2Proof.Machine

/-- The bits of CHK (R28). -/
def Chk.bits : Chk → BitVec 2
  | .pass => 0
  | .notAddressed => 1
  | .invalid => 2
  | .unchecked => 3

/-- The bits of CAUSE (R28). -/
def Cause.bits : Cause → BitVec 2
  | .noCause => 0
  | .tooShort => 1
  | .wrongId => 2
  | .crcMismatch => 3

/-- The bits of ERRCODE (R28, R131). -/
def ErrCode.bits : ErrCode → BitVec 3
  | .noError => 0
  | .illegalOpcode => 1
  | .reservedField => 2
  | .outOfBounds => 3

/-- STATUS as its eight defined bits: ERRCODE [7:5], ERR [4], CAUSE [3:2], CHK [1:0] (R28). -/
def Status.bits (t : Status) : Byte :=
  t.errcode.bits ++ BitVec.ofBool t.err ++ t.cause.bits ++ t.chk.bits

/-- The error code of a decode error (R131). -/
def errCodeOf : DecodeError → ErrCode
  | .illegalOpcode => .illegalOpcode
  | .reservedField => .reservedField

/-- Step 5 of R67: the command succeeded. CHK and CAUSE stay. -/
def Status.succeeded (t : Status) : Status := { t with err := false, errcode := .noError }

/-- The effect of a command error (R132). CHK and CAUSE stay. -/
def Status.failed (t : Status) (code : ErrCode) : Status := { t with err := true, errcode := code }

/-- The two fields FRAME_CHECK writes (R90). ERR and ERRCODE stay. -/
def Status.checked (t : Status) (chk : Chk) (cause : Cause) : Status := { t with chk := chk, cause := cause }

end Sys2Proof.Machine
end

