-- ==== Sys2Proof/Machine/Ops.lean ====
section
/-! DEFINITION. The operations the commands and host accesses share: reading and writing FBUF, the named updates of the
registers, the bound check, how a command succeeds, how it takes a command error, and reset. -/

namespace Sys2Proof.Machine

/-! ## FBUF bytes -/

/-- The byte at an index, or what an unlisted index reads as. -/
def Memory.read : Memory → Nat → Option Byte
  | [], _ => unlistedByte
  | (j, b) :: m, i => if i = j then some b else Memory.read m i

/-- Write one byte, keeping the indices strictly rising. -/
def Memory.write : Memory → Nat → Byte → Memory
  | [], i, v => [(i, v)]
  | (j, b) :: m, i, v =>
    if i < j then (i, v) :: (j, b) :: m
    else if i = j then (i, v) :: m
    else (j, b) :: Memory.write m i v

/-- MemRead(i, 1) of R10: a byte that has a value, or the fault of reading one that has none (R55). -/
def memRead (s : State) (i : Nat) : Except Fault Byte :=
  match s.fbuf.read i with
  | some b => .ok b
  | none => .error (.unwrittenByte i)

/-- MemWrite(i, 1, v) of R10. -/
def State.memWrite (s : State) (i : Nat) (v : Byte) : State := { s with fbuf := s.fbuf.write i v }

/-- The bytes at i, i+1, …, i+n-1, read in increasing index order (R82). -/
def readRange (s : State) (i : Nat) : Nat → Except Fault (List Byte)
  | 0 => .ok []
  | n + 1 => (memRead s i).bind fun b => (readRange s (i + 1) n).map fun bs => b :: bs

/-! ## Named updates of the registers -/

/-- CRC <- v (R21). -/
def State.setCrc (s : State) (v : Half) : State := { s with crc := v }

/-- DATA <- v (R23). -/
def State.setData (s : State) (v : Half) : State := { s with data := v }

/-- RESULT <- v (R24). -/
def State.setResult (s : State) (v : Word) : State := { s with result := v }

/-- SLAVE_ID <- v (R25). -/
def State.setSlaveId (s : State) (v : Byte) : State := { s with slaveId := v }

/-- LEN <- n (R26). -/
def State.setLen (s : State) (n : Nat) : State := { s with len := BitVec.ofNat 16 n }

/-- STATUS.CHK <- chk and STATUS.CAUSE <- cause (R90). -/
def State.setCheck (s : State) (chk : Chk) (cause : Cause) : State :=
  { s with status := s.status.checked chk cause }

/-- What the bus carries back for this access. -/
def State.setReply (s : State) (r : Reply) : State := { s with reply := r }

/-! ## How a command ends -/

/-- Step 5 of R67: STATUS.ERR <- 0, STATUS.ERRCODE <- 0. -/
def State.succeed (s : State) : State := { s with status := s.status.succeeded }

/-- Taking the block's one exception, a command error: `raise CmdError(code)` (R131, R132). STATUS.ERR <- 1 and
STATUS.ERRCODE <- code, and nothing else. It saves nothing, switches no mode and transfers control nowhere, and there is
no return from it (R137); a later command's success clears it. -/
def State.raiseCmdError (s : State) (code : ErrCode) : State := { s with status := s.status.failed code }

/-- Step 3 of R67: the range a command touches ends at `limit`; outside FBUF the command raises OUT_OF_BOUNDS and
accesses nothing (R47). Natural numbers: nothing wraps (R9). -/
def withinBound (limit : Nat) (s : State) (body : Result) : Result :=
  if limit ≤ s.params.nBuf then body else .next (s.raiseCmdError .outOfBounds)

/-- Steps 4 and 5 of R67: the command's effect, then success. The effect never raises (R80); it faults where it reads a
byte that has no value (R55). -/
def finish : Except Fault State → Result
  | .ok t => .next t.succeed
  | .error f => .fault f

/-! ## Reset -/

/-- Reset (R150): every register takes its reset value at once; the parameters stay (R31). FBUF contents are unspecified
afterwards whatever they were before, so no byte has a value (R55; log entry 4). The events still to come and the
context that holds the block are the outside's and stay, and so does what the bus last carried back to it. -/
def State.resetBlock (s : State) : State :=
  { State.reset with params := s.params, events := s.events, reply := s.reply, context := s.context }

end Sys2Proof.Machine
end

