-- ==== Sys2Proof/Machine/Operands.lean ====
section
/-! DEFINITION. Operand forms: how 16-bit and 32-bit values are made from FBUF bytes and taken apart
(spec/20_memory.md R46, R47; spec/41_codec.md R110, R113; spec/10_state.md R22). -/

namespace Sys2Proof.Machine

/-- v[7:0] of a 16-bit value. -/
def lowByte (v : Half) : Byte := v.extractLsb' 0 8

/-- v[15:8] of a 16-bit value. -/
def highByte (v : Half) : Byte := v.extractLsb' 8 8

/-- CRC_WIRE: the two bytes swapped, `{CRC[7:0], CRC[15:8]}` (R22). -/
def crcWire (c : Half) : Half := lowByte c ++ highByte c

/-- `u16_at(i) = {FBUF[i], FBUF[i+1]}`: one Modbus register, big-endian (R46(a), R110). -/
def u16At (s : State) (i : Nat) : Except Fault Half :=
  (memRead s i).bind fun hi => (memRead s (i + 1)).map fun lo => hi ++ lo

/-- Two 16-bit registers in increasing index order, joined into a 32-bit value (R113). -/
def joinRegs (order : WordOrder) (first second : Half) : Word :=
  match order with
  | .lowWordFirst => second ++ first
  | .highWordFirst => first ++ second

/-- The 32-bit value of the four bytes at i (R113): {u16_at(i+2), u16_at(i)} under LOW_WORD_FIRST. -/
def f32At (s : State) (i : Nat) : Except Fault Word :=
  (u16At s i).bind fun first => (u16At s (i + 2)).map fun second => joinRegs s.params.wordOrder first second

/-- The data byte of CRC_BYTE (R62). -/
def dataByte (b : Nat) : Byte := BitVec.ofNat 8 b

/-- Write a Modbus register big-endian at i: the high byte at the lower index (R46(a), R112). -/
def State.writeBigEndian (s : State) (i : Nat) (v : Half) : State :=
  (s.memWrite i (highByte v)).memWrite (i + 1) (lowByte v)

/-- Write a CRC low byte first at i (R46(b), R84). -/
def State.writeCrc (s : State) (i : Nat) (c : Half) : State :=
  (s.memWrite i (lowByte c)).memWrite (i + 1) (highByte c)

end Sys2Proof.Machine
end

