-- ==== Sys2Proof/Machine/Codec.lean ====
section
/-! DEFINITION. The byte-order codec family (spec/41_codec.md): REG_TO_U16, U16_TO_REG, F32_WORD_SWAP. They move bits
only: there is no floating-point arithmetic (R115). -/

namespace Sys2Proof.Machine

/-- REG_TO_U16 a (R111): RESULT <- zext_32(u16_at(a)). -/
def execRegToU16 (a : Nat) (s : State) : Result :=
  withinBound (a + 2) s (finish ((u16At s a).map fun v => s.setResult (v.setWidth 32)))

/-- U16_TO_REG a (R112): DATA, high byte at index a. -/
def execU16ToReg (a : Nat) (s : State) : Result :=
  withinBound (a + 2) s (finish (.ok (s.writeBigEndian a s.data)))

/-- F32_WORD_SWAP a (R113): RESULT <- {u16_at(a+2), u16_at(a)}. -/
def execF32WordSwap (a : Nat) (s : State) : Result :=
  withinBound (a + 4) s (finish ((f32At s a).map fun v => s.setResult v))

end Sys2Proof.Machine
end

