-- ==== Sys2Proof/Machine/CrcFunction.lean ====
section
/-! DEFINITION. The CRC function of spec/40_crc.md: the per-byte update, the lookup table, the CRC of a byte string and
of an FBUF range (R81 to R84). -/

namespace Sys2Proof.Machine

/-- POLY, the reflected polynomial (R7). -/
def poly : Half := 0xA001

/-- The seed of a CRC (R7, R11). -/
def seed : Half := 0xFFFF

/-- One round of the loop of R83: shift right, and exclusive-or POLY when the bit shifted out is 1. -/
def crcRound (x : Half) : Half := if x.getLsbD 0 then (x >>> 1) ^^^ poly else x >>> 1

/-- `repeat n times` of R81 and R83. -/
def crcRounds : Nat → Half → Half
  | 0, x => x
  | n + 1, x => crcRounds n (crcRound x)

/-- T[k], defined by R83's loop over k widened to 16 bits. -/
def crcTable (k : Byte) : Half := crcRounds 8 (k.setWidth 16)

/-- Row 0 of the table R83 lists: T[0x00] to T[0x0F]. -/
def crcTableRow0 : List Half :=
  [0x0000, 0xC0C1, 0xC181, 0x0140, 0xC301, 0x03C0, 0x0280, 0xC241,
   0xC601, 0x06C0, 0x0780, 0xC741, 0x0500, 0xC5C1, 0xC481, 0x0440]

/-- Row 1 of the table R83 lists: T[0x10] to T[0x1F]. -/
def crcTableRow1 : List Half :=
  [0xCC01, 0x0CC0, 0x0D80, 0xCD41, 0x0F00, 0xCFC1, 0xCE81, 0x0E40,
   0x0A00, 0xCAC1, 0xCB81, 0x0B40, 0xC901, 0x09C0, 0x0880, 0xC841]

/-- Row 2 of the table R83 lists: T[0x20] to T[0x2F]. -/
def crcTableRow2 : List Half :=
  [0xD801, 0x18C0, 0x1980, 0xD941, 0x1B00, 0xDBC1, 0xDA81, 0x1A40,
   0x1E00, 0xDEC1, 0xDF81, 0x1F40, 0xDD01, 0x1DC0, 0x1C80, 0xDC41]

/-- Row 3 of the table R83 lists: T[0x30] to T[0x3F]. -/
def crcTableRow3 : List Half :=
  [0x1400, 0xD4C1, 0xD581, 0x1540, 0xD701, 0x17C0, 0x1680, 0xD641,
   0xD201, 0x12C0, 0x1380, 0xD341, 0x1100, 0xD1C1, 0xD081, 0x1040]

/-- Row 4 of the table R83 lists: T[0x40] to T[0x4F]. -/
def crcTableRow4 : List Half :=
  [0xF001, 0x30C0, 0x3180, 0xF141, 0x3300, 0xF3C1, 0xF281, 0x3240,
   0x3600, 0xF6C1, 0xF781, 0x3740, 0xF501, 0x35C0, 0x3480, 0xF441]

/-- Row 5 of the table R83 lists: T[0x50] to T[0x5F]. -/
def crcTableRow5 : List Half :=
  [0x3C00, 0xFCC1, 0xFD81, 0x3D40, 0xFF01, 0x3FC0, 0x3E80, 0xFE41,
   0xFA01, 0x3AC0, 0x3B80, 0xFB41, 0x3900, 0xF9C1, 0xF881, 0x3840]

/-- Row 6 of the table R83 lists: T[0x60] to T[0x6F]. -/
def crcTableRow6 : List Half :=
  [0x2800, 0xE8C1, 0xE981, 0x2940, 0xEB01, 0x2BC0, 0x2A80, 0xEA41,
   0xEE01, 0x2EC0, 0x2F80, 0xEF41, 0x2D00, 0xEDC1, 0xEC81, 0x2C40]

/-- Row 7 of the table R83 lists: T[0x70] to T[0x7F]. -/
def crcTableRow7 : List Half :=
  [0xE401, 0x24C0, 0x2580, 0xE541, 0x2700, 0xE7C1, 0xE681, 0x2640,
   0x2200, 0xE2C1, 0xE381, 0x2340, 0xE101, 0x21C0, 0x2080, 0xE041]

/-- Row 8 of the table R83 lists: T[0x80] to T[0x8F]. -/
def crcTableRow8 : List Half :=
  [0xA001, 0x60C0, 0x6180, 0xA141, 0x6300, 0xA3C1, 0xA281, 0x6240,
   0x6600, 0xA6C1, 0xA781, 0x6740, 0xA501, 0x65C0, 0x6480, 0xA441]

/-- Row 9 of the table R83 lists: T[0x90] to T[0x9F]. -/
def crcTableRow9 : List Half :=
  [0x6C00, 0xACC1, 0xAD81, 0x6D40, 0xAF01, 0x6FC0, 0x6E80, 0xAE41,
   0xAA01, 0x6AC0, 0x6B80, 0xAB41, 0x6900, 0xA9C1, 0xA881, 0x6840]

/-- Row A of the table R83 lists: T[0xA0] to T[0xAF]. -/
def crcTableRowA : List Half :=
  [0x7800, 0xB8C1, 0xB981, 0x7940, 0xBB01, 0x7BC0, 0x7A80, 0xBA41,
   0xBE01, 0x7EC0, 0x7F80, 0xBF41, 0x7D00, 0xBDC1, 0xBC81, 0x7C40]

/-- Row B of the table R83 lists: T[0xB0] to T[0xBF]. -/
def crcTableRowB : List Half :=
  [0xB401, 0x74C0, 0x7580, 0xB541, 0x7700, 0xB7C1, 0xB681, 0x7640,
   0x7200, 0xB2C1, 0xB381, 0x7340, 0xB101, 0x71C0, 0x7080, 0xB041]

/-- Row C of the table R83 lists: T[0xC0] to T[0xCF]. -/
def crcTableRowC : List Half :=
  [0x5000, 0x90C1, 0x9181, 0x5140, 0x9301, 0x53C0, 0x5280, 0x9241,
   0x9601, 0x56C0, 0x5780, 0x9741, 0x5500, 0x95C1, 0x9481, 0x5440]

/-- Row D of the table R83 lists: T[0xD0] to T[0xDF]. -/
def crcTableRowD : List Half :=
  [0x9C01, 0x5CC0, 0x5D80, 0x9D41, 0x5F00, 0x9FC1, 0x9E81, 0x5E40,
   0x5A00, 0x9AC1, 0x9B81, 0x5B40, 0x9901, 0x59C0, 0x5880, 0x9841]

/-- Row E of the table R83 lists: T[0xE0] to T[0xEF]. -/
def crcTableRowE : List Half :=
  [0x8801, 0x48C0, 0x4980, 0x8941, 0x4B00, 0x8BC1, 0x8A81, 0x4A40,
   0x4E00, 0x8EC1, 0x8F81, 0x4F40, 0x8D01, 0x4DC0, 0x4C80, 0x8C41]

/-- Row F of the table R83 lists: T[0xF0] to T[0xFF]. -/
def crcTableRowF : List Half :=
  [0x4400, 0x84C1, 0x8581, 0x4540, 0x8701, 0x47C0, 0x4680, 0x8641,
   0x8201, 0x42C0, 0x4380, 0x8341, 0x4100, 0x81C1, 0x8081, 0x4040]

/-- The 256 values R83 lists, T[0x00] first. They are part of that rule; the circuit behind the function is not
architectural (I11), so the machine uses `crcTable`, and an obligation says that the two agree. -/
def crcTableListed : List Half :=
  crcTableRow0 ++ crcTableRow1 ++ crcTableRow2 ++ crcTableRow3 ++ crcTableRow4 ++ crcTableRow5 ++ crcTableRow6 ++ crcTableRow7 ++
  crcTableRow8 ++ crcTableRow9 ++ crcTableRowA ++ crcTableRowB ++ crcTableRowC ++ crcTableRowD ++ crcTableRowE ++ crcTableRowF

/-- The per-byte update `(c >> 8) ^ T[(c ^ zext_16(b)) & 0x00FF]` (R81). -/
def crcStep (c : Half) (b : Byte) : Half :=
  (c >>> 8) ^^^ crcTable (((c ^^^ b.setWidth 16) &&& 0x00FF).setWidth 8)

/-- The CRC of a byte string from a start value, bytes in wire order (R82). -/
def crcOfBytes (c : Half) (bs : List Byte) : Half := bs.foldl crcStep c

/-- `crc16_from(c0, i, n)`: the CRC of n FBUF bytes from index i (R82). -/
def crc16From (s : State) (c0 : Half) (i n : Nat) : Except Fault Half :=
  (readRange s i n).map (crcOfBytes c0)

/-- `crc16(i, n)` (R82). -/
def crc16 (s : State) (i n : Nat) : Except Fault Half := crc16From s seed i n

end Sys2Proof.Machine
end

