-- ==== Sys2Proof/Machine/Crc.lean ====
section
/-! DEFINITION. The CRC family (spec/40_crc.md): CRC_INIT, CRC_BYTE, CRC_BUF, CRC_ACC, CRC_APPEND, FRAME_CHECK. Each
meaning is steps 3 to 5 of spec/30_encoding.md R67; steps 1 and 2 are the decoder's. -/

namespace Sys2Proof.Machine

/-- MIN_FRAME, the shortest frame FRAME_CHECK accepts (R7). -/
abbrev minFrame : Nat := 8

/-- CRC_INIT (R85). -/
def execCrcInit (s : State) : Result := finish (.ok (s.setCrc seed))

/-- CRC_BYTE b (R86). -/
def execCrcByte (b : Nat) (s : State) : Result := finish (.ok (s.setCrc (crcStep s.crc (dataByte b))))

/-- CRC_BUF a, n (R87). -/
def execCrcBuf (a n : Nat) (s : State) : Result :=
  withinBound (a + n) s (finish ((crc16 s a n).map fun c => s.setCrc c))

/-- CRC_ACC a, n (R88). -/
def execCrcAcc (a n : Nat) (s : State) : Result :=
  withinBound (a + n) s (finish ((crc16From s s.crc a n).map fun c => s.setCrc c))

/-- CRC_APPEND a, n (R89): the CRC is computed before either byte is written. -/
def execCrcAppend (a n : Nat) (s : State) : Result :=
  withinBound (a + n + 2) s
    (finish ((crc16 s a n).map fun c => ((s.writeCrc (a + n) c).setCrc c).setLen (n + 2)))

/-- The third branch of R90: the CRC register takes c, and the two trailing bytes decide. -/
def crcVerdict (s : State) (c : Half) (lo hi : Byte) : State :=
  if lo = lowByte c ∧ hi = highByte c then (s.setCrc c).setCheck .pass .noCause
  else (s.setCrc c).setCheck .invalid .crcMismatch

/-- The gate of R90 on the frame of length n at a: too short, then wrong id, then the CRC. It reads no byte of a frame
that is too short, and only FBUF[a] on a wrong id (R33). DEDUCED (log entry 5): both trailing bytes are read even when
the first already differs; safe. -/
def frameGate (a n : Nat) (s : State) : Except Fault State :=
  if n < minFrame then .ok (s.setCheck .invalid .tooShort)
  else (memRead s a).bind fun id =>
    if id ≠ s.slaveId then .ok (s.setCheck .notAddressed .wrongId)
    else (crc16 s a (n - 2)).bind fun c =>
      (memRead s (a + n - 2)).bind fun lo =>
        (memRead s (a + n - 1)).map fun hi => crcVerdict s c lo hi

/-- FRAME_CHECK a, n (R90). -/
def execFrameCheck (a n : Nat) (s : State) : Result := withinBound (a + n) s (finish (frameGate a n s))

end Sys2Proof.Machine
end

