-- ==== Sys2Proof/Machine/Dispatch.lean ====
section
/-! DEFINITION. One arm per command: the meaning it runs. -/

namespace Sys2Proof.Machine

def exec (i : Instr) (s : State) : Host.Outcome State Fault Refusal :=
  match i with
  | .crcInit => Sys2Proof.Machine.execCrcInit s
  | .crcByte b => Sys2Proof.Machine.execCrcByte b s
  | .crcBuf a n => Sys2Proof.Machine.execCrcBuf a n s
  | .crcAcc a n => Sys2Proof.Machine.execCrcAcc a n s
  | .crcAppend a n => Sys2Proof.Machine.execCrcAppend a n s
  | .frameCheck a n => Sys2Proof.Machine.execFrameCheck a n s
  | .regToU16 a => Sys2Proof.Machine.execRegToU16 a s
  | .u16ToReg a => Sys2Proof.Machine.execU16ToReg a s
  | .f32WordSwap a => Sys2Proof.Machine.execF32WordSwap a s

end Sys2Proof.Machine
end

