-- ==== Sys2Proof/Machine/HostBus.lean ====
section
/-! DEFINITION. The host window: the address map, the registers' read and write views, the CMD transaction, and one
host access (spec/20_memory.md R40 to R46, spec/10_state.md R21 to R31, spec/60_exceptions.md R134). -/

namespace Sys2Proof.Machine

/-! ## The address map (R41) -/

/-- The names of the register part of the window (R41). -/
inductive Reg where
  | cmd | status | crc | crcWire | slaveId | data | result | len | config
deriving DecidableEq, Repr

/-- The offset of a register from BASE (R41). -/
def Reg.offset : Reg → Nat
  | .cmd => 0x000
  | .status => 0x004
  | .crc => 0x008
  | .crcWire => 0x00C
  | .slaveId => 0x010
  | .data => 0x014
  | .result => 0x018
  | .len => 0x01C
  | .config => 0x020

/-- The register at an offset (R41). -/
def regAt (off : Nat) : Option Reg :=
  if off = 0x000 then some .cmd
  else if off = 0x004 then some .status
  else if off = 0x008 then some .crc
  else if off = 0x00C then some .crcWire
  else if off = 0x010 then some .slaveId
  else if off = 0x014 then some .data
  else if off = 0x018 then some .result
  else if off = 0x01C then some .len
  else if off = 0x020 then some .config
  else none

/-- The size of the window in bytes (R40). -/
abbrev windowSize : Nat := 0x2000

/-- The offset of FBUF index 0 (R40, R41). -/
abbrev fbufOffset : Nat := 0x1000

/-- What an admitted access reaches. -/
inductive Target where
  | register (r : Reg)
  | byte (index : Nat)
deriving DecidableEq, Repr

/-- The target of an access of `width` bits at an offset, or none where R43 says bus error: a register takes 32-bit
aligned accesses, an FBUF byte 8-bit accesses (R42). -/
def route (nBuf off width : Nat) : Option Target :=
  match regAt off with
  | some r => if width = 32 then some (.register r) else none
  | none =>
    if fbufOffset ≤ off ∧ off < fbufOffset + nBuf ∧ width = 8 then some (.byte (off - fbufOffset)) else none

/-! ## The registers as the host sees them -/

/-- The 32-bit value a host read of a register returns; the bits above a register's width are 0 (R21 to R31). -/
def readReg (r : Reg) (s : State) : Word :=
  match r with
  | .cmd => 0
  | .status => s.status.bits.setWidth 32
  | .crc => s.crc.setWidth 32
  | .crcWire => (crcWire s.crc).setWidth 32
  | .slaveId => s.slaveId.setWidth 32
  | .data => s.data.setWidth 32
  | .result => s.result
  | .len => s.len.setWidth 32
  | .config => (BitVec.ofNat 13 s.params.nBuf).setWidth 32

/-- The CMD transaction (R44, R67): decode; a decode error is taken as a command error, a command runs. -/
def command (w : Word) (s : State) : Result :=
  match decode w with
  | .ok i => exec i s
  | .error e => .next (s.raiseCmdError (errCodeOf e))

/-- A host write of a register: CMD performs its command (R30), CRC, SLAVE_ID and DATA take the low bits of the value
(R21, R23, R25), and the read-only registers ignore it (R22, R24, R26, R28, R31). -/
def writeReg (r : Reg) (v : Word) (s : State) : Result :=
  match r with
  | .cmd => command v s
  | .crc => .next (s.setCrc (v.setWidth 16))
  | .slaveId => .next (s.setSlaveId (v.setWidth 8))
  | .data => .next (s.setData (v.setWidth 16))
  | .status | .crcWire | .result | .len | .config => .next s

/-! ## One host access -/

/-- HostRead(off, w) of R10. A read changes nothing but what the bus carries back (R45). -/
def hostRead (off width : Nat) (s : State) : Result :=
  match route s.params.nBuf off width with
  | none => .fault (.busError off width)
  | some (.register r) => .next (s.setReply (.data (readReg r s)))
  | some (.byte i) =>
    match memRead s i with
    | .ok b => .next (s.setReply (.data (b.setWidth 32)))
    | .error f => .fault f

/-- HostWrite(off, w, v) of R10. -/
def hostWrite (off width : Nat) (v : Word) (s : State) : Result :=
  match route s.params.nBuf off width with
  | none => .fault (.busError off width)
  | some (.register r) => writeReg r v (s.setReply .written)
  | some (.byte i) => .next ((s.memWrite i (v.setWidth 8)).setReply .written)

/-- Is a bus address inside the window BASE .. BASE+0x1FFF (R40)? -/
abbrev inWindow (p : Params) (addr : Nat) : Prop := p.base ≤ addr ∧ addr < p.base + windowSize

/-- A host write by its bus address. -/
def hostWriteAt (addr width : Nat) (v : Word) (s : State) : Result :=
  if inWindow s.params addr then hostWrite (addr - s.params.base) width v s else .refused (.outsideWindow addr)

/-- One host access by its bus address. Outside the window it reaches another device (log entry 7). The host takes the f
of a write of `f | mask` from what its last read returned (R69; log entry 13). -/
def hostAccess (a : HostAccess) (s : State) : Result :=
  match a with
  | .read addr width =>
    if inWindow s.params addr then hostRead (addr - s.params.base) width s else .refused (.outsideWindow addr)
  | .write addr width v => hostWriteAt addr width v s
  | .writeReadOr addr width mask =>
    match s.reply with
    | .data f => hostWriteAt addr width (f ||| mask) s
    | .idle | .written => .refused .noReadValue

/-! ## What one event does -/

/-- One event of the outside (log entries 1, 4, 8): an access of the context that holds the block is performed, one of
another context is refused (R54, I2); a hand-over changes the holder, to whom no access has answered yet; reset resets the block (R150). -/
def perform (e : Event) (s : State) : Result :=
  match e with
  | .access c a => if c = s.context then hostAccess a s else .refused (.interleavedUse c)
  | .handover c => .next { s with context := c, reply := .idle }
  | .reset => .next s.resetBlock

/-- The bus address of CMD. -/
def cmdAddress (p : Params) : Nat := p.base + Reg.cmd.offset

/-- The event by which the context that holds the block performs a command. -/
def cmdWrite (s : State) (w : Word) : Event := .access s.context (.write (cmdAddress s.params) 32 w)

end Sys2Proof.Machine
end

