-- ==== Sys2Proof/Machine/Step.lean ====
section
/-! DEFINITION. One step: the next event of the outside. MBCRC has no program counter and fetches nothing
(spec/10_state.md R29); a program is what the host writes to CMD. -/

namespace Sys2Proof.Machine

/-- One step. The next event is taken from the front and performed. With none left the block is idle and keeps all its
state (R29, R144; log entry 12). -/
def step (s : State) : Host.Outcome State Fault Refusal :=
  match s.events with
  | [] => .next s
  | e :: rest => perform e { s with events := rest }

/-- `s` with a 32-bit host write of this command word to CMD as the very next event (log entry 1). -/
def State.withFetchWord (s : State) (nbits w : Nat) : State :=
  { s with events := cmdWrite s (tableWord nbits w) :: s.events }

end Sys2Proof.Machine
end

