-- ==== Sys2Proof/Machine/HostProgram.lean ====
section
/-! DEFINITION. Host programs: the statements of spec/30_encoding.md R68, the accesses they stand for, and the
pseudo-instructions of R69 with their expansions. -/

namespace Sys2Proof.Machine

/-- The statements of R68. -/
inductive Stmt where
  /-- A command: `W32 CMD, w` with w its F0 encoding. -/
  | cmd (i : Instr)
  /-- `W32 REG, v`. -/
  | w32 (r : Reg) (v : Word)
  /-- `R32 REG`. -/
  | r32 (r : Reg)
  /-- `W8 FBUF[i], v`. -/
  | w8 (i : Nat) (v : Byte)
  /-- `W8 FBUF[i], f | mask`, f the value of the read before it (R69). -/
  | w8ReadOr (i : Nat) (mask : Byte)
  /-- `R8 FBUF[i]`. -/
  | r8 (i : Nat)
deriving DecidableEq, Repr

/-- The access a statement stands for (R68), in a window at `base`; none for an assembly error. -/
def Stmt.access (base : Nat) : Stmt → Option HostAccess
  | .cmd i => if i.wf then some (.write (base + Reg.cmd.offset) 32 (encode i)) else none
  | .w32 r v => some (.write (base + r.offset) 32 v)
  | .r32 r => some (.read (base + r.offset) 32)
  | .w8 i v => some (.write (base + (fbufOffset + i)) 8 (v.setWidth 32))
  | .w8ReadOr i mask => some (.writeReadOr (base + (fbufOffset + i)) 8 (mask.setWidth 32))
  | .r8 i => some (.read (base + (fbufOffset + i)) 8)

/-- The accesses of a list of statements; none where one of them is an assembly error. -/
def assemble (base : Nat) : List Stmt → Option (List HostAccess)
  | [] => some []
  | t :: ts => (t.access base).bind fun a => (assemble base ts).map fun rest => a :: rest

/-- The pseudo-instructions of R69, with that rule's operands. -/
inductive Pseudo where
  | fill (i : Nat) (bs : List Byte)
  | setId (id : Word)
  | setData (v : Word)
  | crcStream (bs : List Byte)
  | check (n : Nat)
  | put16 (i : Nat) (v : Word)
  | get16 (i : Nat)
  | excFrame (code : Byte)
deriving DecidableEq, Repr

/-- `W8 FBUF[i], b0; W8 FBUF[i+1], b1; …` (R69). -/
def fillFrom (i : Nat) : List Byte → List Stmt
  | [] => []
  | b :: bs => .w8 i b :: fillFrom (i + 1) bs

/-- The expansions of R69. -/
def Pseudo.expand : Pseudo → List Stmt
  | .fill i bs => fillFrom i bs
  | .setId id => [.w32 .slaveId id]
  | .setData v => [.w32 .data v]
  | .crcStream bs => .cmd .crcInit :: bs.map fun b => .cmd (.crcByte b.toNat)
  | .check n => [.cmd (.frameCheck 0 n), .r32 .status]
  | .put16 i v => [.w32 .data v, .cmd (.u16ToReg i)]
  | .get16 i => [.cmd (.regToU16 i), .r32 .result]
  | .excFrame code => [.r8 1, .w8ReadOr 1 0x80, .w8 2 code, .cmd (.crcAppend 0 3)]

/-- The state in which the context that holds the block goes on with these accesses. -/
def State.withAccesses (s : State) (as : List HostAccess) : State :=
  { s with events := as.map (Event.access s.context) ++ s.events }

end Sys2Proof.Machine
end

