-- ==== Sys2Proof/Safety.lean ====
section
/-! DEFINITION. What counts as a state of the spec, and the terms statements use: which bytes have a value, what FBUF
holds, how a list of commands runs. -/

namespace Sys2Proof.Machine

/-- The five legal (CHK, CAUSE) pairs, and ERR exactly when ERRCODE is not 0 (R28). -/
abbrev Status.Legal (t : Status) : Prop :=
  ((t.chk = .unchecked ∧ t.cause = .noCause) ∨ (t.chk = .pass ∧ t.cause = .noCause) ∨
    (t.chk = .notAddressed ∧ t.cause = .wrongId) ∨ (t.chk = .invalid ∧ t.cause = .tooShort) ∨
    (t.chk = .invalid ∧ t.cause = .crcMismatch)) ∧
  (t.err = true ↔ t.errcode ≠ .noError)

/-- A state the spec allows: legal parameters (R7), FBUF in canonical form and inside 0 .. N_BUF-1 (R27), a legal STATUS
(R28), and LEN zero or a frame length that fits FBUF (R26, R47). -/
structure State.Inv (s : State) : Prop where
  params_legal : s.params.Legal
  fbuf_wf : s.fbuf.wf
  fbuf_inside : ∀ cell ∈ s.fbuf, cell.1 < s.params.nBuf
  status_legal : s.status.Legal
  len_fits : s.len = 0 ∨ (2 ≤ s.len.toNat ∧ s.len.toNat ≤ s.params.nBuf)

/-- Every byte of FBUF[a .. a+n) has a value (R55). -/
abbrev State.Readable (s : State) (a n : Nat) : Prop := ∀ k < n, s.fbuf.read (a + k) ≠ none

/-- `FBUF[a .. a+|bs|) = bs`, in the notation of R8. -/
abbrev State.Holds (s : State) (a : Nat) (bs : List Byte) : Prop :=
  ∀ k < bs.length, s.fbuf.read (a + k) = bs[k]?

/-- A list of commands, one CMD write after another, as far as none of them faults. -/
def execAll : List Instr → State → Result
  | [], s => .next s
  | i :: is, s =>
    match exec i s with
    | .next t => execAll is t
    | .fault f => .fault f
    | .refused r => .refused r

end Sys2Proof.Machine
end

