-- ==== Sys2Proof/Certificates/Slice0/Obligations.lean ====
section
/-! DEFINITION. The statements about the model. Each docstring names the rule of spec/ it formalises. The words and
values in them are written out from the spec, not through the model's own decoder and status functions. -/

namespace Sys2Proof.Claims

open Sys2Proof Sys2Proof.Machine

/-! ## The terms of the statements -/

/-- OP, as a number (R61). -/
def op (w : Word) : Nat := w.toNat / 2 ^ 24

/-- A, as a number (R61). -/
def opA (w : Word) : Nat := w.toNat / 2 ^ 12 % 2 ^ 12

/-- B, as a number (R61). -/
def opB (w : Word) : Nat := w.toNat % 2 ^ 12

/-- The word with these fields (R61). -/
abbrev wordOf (o a b : Nat) : Word := BitVec.ofNat 32 (o * 2 ^ 24 + a * 2 ^ 12 + b)

/-- The opcodes R64 calls illegal: 0x00, 0x07 to 0x0F and 0x13 to 0xFF. -/
abbrev IllegalOp (o : Nat) : Prop := o = 0 ∨ (0x07 ≤ o ∧ o ≤ 0x0F) ∨ 0x13 ≤ o

/-- A field R65 reserves is not zero. -/
abbrev ReservedSet (w : Word) : Prop :=
  (op w = 0x01 ∧ (opA w ≠ 0 ∨ opB w ≠ 0)) ∨
  (op w = 0x02 ∧ (opA w ≠ 0 ∨ opB w / 2 ^ 8 ≠ 0)) ∨
  ((op w = 0x10 ∨ op w = 0x11 ∨ op w = 0x12) ∧ opB w ≠ 0)

/-- The bound of R47's table holds. -/
abbrev InBound (w : Word) (nBuf : Nat) : Prop :=
  ((op w = 0x03 ∨ op w = 0x04 ∨ op w = 0x06) → opA w + opB w ≤ nBuf) ∧
  (op w = 0x05 → opA w + opB w + 2 ≤ nBuf) ∧
  ((op w = 0x10 ∨ op w = 0x11) → opA w + 2 ≤ nBuf) ∧
  (op w = 0x12 → opA w + 4 ≤ nBuf)

/-- STATUS after a successful command (R67 step 5). -/
abbrev okStatus (t : Status) : Status := { t with err := false, errcode := .noError }

/-- The state after a command error: nothing but ERR and ERRCODE (R132). -/
abbrev failedWith (s : State) (code : ErrCode) : State :=
  { s with status := { s.status with err := true, errcode := code } }

/-- v[7:0]. -/
abbrev lo8 (v : Half) : Byte := v.setWidth 8

/-- v[15:8]. -/
abbrev hi8 (v : Half) : Byte := (v >>> 8).setWidth 8

/-- The loop of R81 and R83, written out with POLY. -/
def serialLoop : Nat → Half → Half
  | 0, x => x
  | n + 1, x => serialLoop n (if x % 2 = 1 then (x >>> 1) ^^^ 0xA001 else x >>> 1)

/-- CRC of a byte string from the seed (R82). -/
abbrev crcSeeded (bs : List Byte) : Half := bs.foldl crcStep 0xFFFF

/-- `Rz(x) = crc_step(crc_step(0x0000, x[7:0]), x[15:8])` of R96. -/
def Rz (x : Half) : Half := crcStep (crcStep 0x0000 (lo8 x)) (hi8 x)

/-- The FBUF range a command reads at most (R33): base and length. -/
def readRangeOf : Instr → Nat × Nat
  | .crcInit => (0, 0)
  | .crcByte _ => (0, 0)
  | .crcBuf a n => (a, n)
  | .crcAcc a n => (a, n)
  | .crcAppend a n => (a, n)
  | .frameCheck a n => (a, n)
  | .regToU16 a => (a, 2)
  | .u16ToReg _ => (0, 0)
  | .f32WordSwap a => (a, 4)

/-- Two states agree on an FBUF range. -/
abbrev SameBytes (s t : State) (a n : Nat) : Prop := ∀ k < n, s.fbuf.read (a + k) = t.fbuf.read (a + k)

/-- Two states agree on what R33's "reads" column lists for a command; for FRAME_CHECK on nothing when B < 8, and on the
whole frame only when the id is right. -/
def SameReads (i : Instr) (s t : State) : Prop :=
  s.params = t.params ∧
  match i with
  | .crcInit => True
  | .crcByte _ => s.crc = t.crc
  | .crcBuf a n => SameBytes s t a n
  | .crcAcc a n => s.crc = t.crc ∧ SameBytes s t a n
  | .crcAppend a n => SameBytes s t a n
  | .frameCheck a n => 8 ≤ n → s.slaveId = t.slaveId ∧ s.fbuf.read a = t.fbuf.read a ∧
      (s.fbuf.read a = some s.slaveId → SameBytes s t a n)
  | .regToU16 a => SameBytes s t a 2
  | .u16ToReg _ => s.data = t.data
  | .f32WordSwap a => SameBytes s t a 4

/-- Two results agree on what R33's "writes on success" column lists for a command. FRAME_CHECK writes CRC only when its
CRC step runs: both results then hold the same CRC, or both still hold the CRC they had before. -/
def SameWrites (i : Instr) (s t s' t' : State) : Prop :=
  match i with
  | .crcInit => s'.crc = t'.crc
  | .crcByte _ => s'.crc = t'.crc
  | .crcBuf _ _ => s'.crc = t'.crc
  | .crcAcc _ _ => s'.crc = t'.crc
  | .crcAppend a n => SameBytes s' t' (a + n) 2 ∧ s'.crc = t'.crc ∧ s'.len = t'.len
  | .frameCheck _ _ => s'.status.chk = t'.status.chk ∧ s'.status.cause = t'.status.cause ∧
      (s'.crc = t'.crc ∨ (s'.crc = s.crc ∧ t'.crc = t.crc))
  | .regToU16 _ => s'.result = t'.result
  | .u16ToReg a => SameBytes s' t' a 2
  | .f32WordSwap _ => s'.result = t'.result

/-- The next event is a write of `v` at an offset of the window, by the context that holds the block: of `v` itself, or
of `f | mask`, f being what its last read returned (log entry 13). -/
def NextWrites (s : State) (off width : Nat) (v : Word) : Prop :=
  s.events.head? = some (.access s.context (.write (s.params.base + off) width v)) ∨
  ∃ f mask, s.reply = .data f ∧ v = f ||| mask ∧
    s.events.head? = some (.access s.context (.writeReadOr (s.params.base + off) width mask))

/-- The next event is a 32-bit write of `v` at an offset of the window. -/
def NextIsWrite (s : State) (off : Nat) (v : Word) : Prop := NextWrites s off 32 v

/-- The next event is a CMD write of a word with this opcode. -/
def NextIsCommand (s : State) (o : Nat) : Prop := ∃ w, NextIsWrite s 0x000 w ∧ op w = o

/-- The next event is a reset. -/
def NextIsReset (s : State) : Prop := s.events.head? = some .reset

/-- The next event is an 8-bit write at an offset of the window. -/
def NextIsByteWrite (s : State) (off : Nat) : Prop := ∃ v, NextWrites s off 8 v

end Sys2Proof.Claims

open Sys2Proof Sys2Proof.Machine Sys2Proof.Claims

/-! ## Encoding (30_encoding.md) -/

/-- Every well-formed command decodes from its own word, with every operand. -/
def Obligations.DecodeOfEncodeIsTheCommand : Prop :=
  ∀ i : Instr, i.wf = true → decode (encode i) = .ok i

/-- Every word that decodes is the word of the command it decodes to, and that command is well formed: no word means two
commands and no two words mean one. -/
def Obligations.EncodeOfDecodeIsTheWord : Prop :=
  ∀ (w : Word) (i : Instr), decode w = .ok i → i.wf = true ∧ encode i = w

/-- R61, R62, R63: for each command, the words that decode to it, and its operands as parts of the word. -/
def Obligations.DecodedOperandsAreTheFieldsOfTheWord : Prop :=
  ∀ w : Word,
    (decode w = .ok .crcInit ↔ op w = 0x01 ∧ opA w = 0 ∧ opB w = 0) ∧
    (∀ b, decode w = .ok (.crcByte b) ↔ op w = 0x02 ∧ opA w = 0 ∧ opB w / 2 ^ 8 = 0 ∧ b = w.toNat % 2 ^ 8) ∧
    (∀ a n, decode w = .ok (.crcBuf a n) ↔ op w = 0x03 ∧ a = opA w ∧ n = opB w) ∧
    (∀ a n, decode w = .ok (.crcAcc a n) ↔ op w = 0x04 ∧ a = opA w ∧ n = opB w) ∧
    (∀ a n, decode w = .ok (.crcAppend a n) ↔ op w = 0x05 ∧ a = opA w ∧ n = opB w) ∧
    (∀ a n, decode w = .ok (.frameCheck a n) ↔ op w = 0x06 ∧ a = opA w ∧ n = opB w) ∧
    (∀ a, decode w = .ok (.regToU16 a) ↔ op w = 0x10 ∧ a = opA w ∧ opB w = 0) ∧
    (∀ a, decode w = .ok (.u16ToReg a) ↔ op w = 0x11 ∧ a = opA w ∧ opB w = 0) ∧
    (∀ a, decode w = .ok (.f32WordSwap a) ↔ op w = 0x12 ∧ a = opA w ∧ opB w = 0)

/-- R64: which opcodes are illegal, that they are 247, that a CMD write of such a word raises ILLEGAL_OPCODE and does
nothing else, and that the zero word is one. -/
def Obligations.IllegalOpcodesRaiseAndDoNothingElse : Prop :=
  (∀ w : Word, decode w = .error .illegalOpcode ↔ IllegalOp (op w)) ∧
  ((List.range 256).filter (fun o => decide (IllegalOp o))).length = 247 ∧
  (∀ (w : Word) (s : State), IllegalOp (op w) → command w s = .next (failedWith s .illegalOpcode)) ∧
  decode 0x00000000 = .error .illegalOpcode

/-- R65: which words fail on a reserved field (so the four buffer commands have none), and that a CMD write of one
raises RESERVED_FIELD and does nothing else. -/
def Obligations.ReservedFieldsRaiseAndDoNothingElse : Prop :=
  (∀ w : Word, decode w = .error .reservedField ↔ ReservedSet w) ∧
  (∀ (w : Word) (s : State), ReservedSet w → command w s = .next (failedWith s .reservedField))

/-- Words the spec writes out (95_test_vectors.md parts 2.3 to 2.8) decode to the commands it says. -/
def Obligations.WordsOfTheSpecDecode : Prop :=
  decode 0x01000000 = .ok .crcInit ∧ decode 0x020000FF = .ok (.crcByte 0xFF) ∧
  decode 0x0300000B = .ok (.crcBuf 0 11) ∧ decode 0x04004007 = .ok (.crcAcc 4 7) ∧
  decode 0x050FD001 = .ok (.crcAppend 253 1) ∧ decode 0x06100000 = .ok (.frameCheck 256 0) ∧
  decode 0x10002000 = .ok (.regToU16 2) ∧ decode 0x110FE000 = .ok (.u16ToReg 254) ∧
  decode 0x120FC000 = .ok (.f32WordSwap 252) ∧ decode 0x07FFFFFF = .error .illegalOpcode ∧
  decode 0x02000100 = .error .reservedField ∧ decode 0x10FFF001 = .error .reservedField

/-! ## The CMD transaction (30_encoding.md R67, 60_exceptions.md) -/

/-- R67: the five steps of a CMD write, in order. -/
def Obligations.CommandRunsItsStepsInOrder : Prop :=
  ∀ (w : Word) (s : State),
    (IllegalOp (op w) → command w s = .next (failedWith s .illegalOpcode)) ∧
    (¬ IllegalOp (op w) → ReservedSet w → command w s = .next (failedWith s .reservedField)) ∧
    (¬ IllegalOp (op w) → ¬ ReservedSet w → ¬ InBound w s.params.nBuf →
      command w s = .next (failedWith s .outOfBounds)) ∧
    (¬ IllegalOp (op w) → ¬ ReservedSet w → InBound w s.params.nBuf →
      ∃ i, decode w = .ok i ∧ command w s = exec i s ∧
        ∀ t, exec i s = .next t → t.status.err = false ∧ t.status.errcode = .noError)

/-- R131: which CMD write leaves which error code, and which commands can; that no other code is produced; that an error
records nothing but the code; and that the code is 0 after reset. -/
def Obligations.EachErrorCodeComesFromItsCommandsOnly : Prop :=
  (∀ (w : Word) (s t : State), command w s = .next t →
    (t.status.errcode = .illegalOpcode ↔ IllegalOp (op w)) ∧
    (t.status.errcode = .reservedField ↔ ReservedSet w) ∧
    (t.status.errcode = .reservedField → op w ∈ [0x01, 0x02, 0x10, 0x11, 0x12]) ∧
    (t.status.errcode = .outOfBounds ↔ ¬ IllegalOp (op w) ∧ ¬ ReservedSet w ∧ ¬ InBound w s.params.nBuf) ∧
    (t.status.errcode = .outOfBounds → op w ∈ [0x03, 0x04, 0x05, 0x06, 0x10, 0x11, 0x12]) ∧
    (t.status.errcode = .noError ↔ t.status.err = false) ∧
    t.status.errcode.bits.toNat ≤ 3 ∧
    (t.status.err = true → t = failedWith s t.status.errcode)) ∧
  State.reset.status.errcode = .noError

/-- R132: a command error changes ERR and ERRCODE and nothing else; a success clears both; neither depends on the ERR and
ERRCODE the state had before, so errors are not sticky. -/
def Obligations.CommandErrorsArePreciseAndNotSticky : Prop :=
  (∀ (w : Word) (s t : State), command w s = .next t →
    (t.status.err = true ∧ t.status.errcode ≠ .noError ∧ t = failedWith s t.status.errcode) ∨
    (t.status.err = false ∧ t.status.errcode = .noError)) ∧
  (∀ (w : Word) (s t : State) (e : Bool) (c : ErrCode), command w s = .next t →
    command w { s with status := { s.status with err := e, errcode := c } } = .next t)

/-- R133: only the first failing check is reported, whatever the later ones would say; and within FRAME_CHECK the order
is too short, wrong id, CRC. -/
def Obligations.OnlyTheFirstFailingCheckIsReported : Prop :=
  (∀ (o a b : Nat) (s : State), IllegalOp o → o < 2 ^ 8 → a < 2 ^ 12 → b < 2 ^ 12 →
    command (wordOf o a b) s = .next (failedWith s .illegalOpcode)) ∧
  (∀ (a b : Nat) (s : State), a < 2 ^ 12 → b < 2 ^ 12 → (a ≠ 0 ∨ b ≠ 0) →
    command (wordOf 0x01 a b) s = .next (failedWith s .reservedField)) ∧
  (∀ (a b : Nat) (s : State), a < 2 ^ 12 → b < 2 ^ 12 → (a ≠ 0 ∨ b / 2 ^ 8 ≠ 0) →
    command (wordOf 0x02 a b) s = .next (failedWith s .reservedField)) ∧
  (∀ (o a b : Nat) (s : State), o ∈ [0x10, 0x11, 0x12] → a < 2 ^ 12 → b ≠ 0 → b < 2 ^ 12 →
    command (wordOf o a b) s = .next (failedWith s .reservedField)) ∧
  (∀ (a n : Nat) (s : State), s.params.nBuf < a + n →
    exec (.frameCheck a n) s = .next (failedWith s .outOfBounds)) ∧
  (∀ (a n : Nat) (s : State), a + n ≤ s.params.nBuf → n < 8 →
    exec (.frameCheck a n) s =
      .next { s with status := { chk := .invalid, cause := .tooShort, err := false, errcode := .noError } }) ∧
  (∀ (a n : Nat) (id : Byte) (s : State), a + n ≤ s.params.nBuf → 8 ≤ n →
    s.fbuf.read a = some id → id ≠ s.slaveId →
    exec (.frameCheck a n) s =
      .next { s with status := { chk := .notAddressed, cause := .wrongId, err := false, errcode := .noError } }) ∧
  (∀ (a n : Nat) (s t : State), exec (.frameCheck a n) s = .next t → t.status.cause = .crcMismatch →
    t.status.err = false → 8 ≤ n ∧ s.fbuf.read a = some s.slaveId)

/-- When the next event is a CMD write, the step runs the decoded command, or takes the command error of a word that
decodes to none; the bus acknowledges the write. The second part says the same of a word placed by `withFetchWord`. -/
def Obligations.StepRunsTheDecodedCommand : Prop :=
  (∀ (s : State) (w : Word) (rest : List Event),
    s.events = .access s.context (.write s.params.base 32 w) :: rest →
    (∀ i, decode w = .ok i → step s = exec i { s with events := rest, reply := .written }) ∧
    (decode w = .error .illegalOpcode →
      step s = .next (failedWith { s with events := rest, reply := .written } .illegalOpcode)) ∧
    (decode w = .error .reservedField →
      step s = .next (failedWith { s with events := rest, reply := .written } .reservedField))) ∧
  (∀ (s : State) (w : Nat) (i : Instr), w < 2 ^ 32 → decodeTableWord 32 w = some i →
    step (s.withFetchWord 32 w) = exec i { s with reply := .written })

/-- The outside's other events (the model's own, log entries 1, 7, 8 and 12): with none left the block is idle and keeps
its state; an access of a context that does not hold the block is refused; a hand-over changes the holder, to whom no
access has answered yet, and nothing else; an access outside the window is refused. -/
def Obligations.EventsThatReachNoRegister : Prop :=
  (∀ s : State, s.events = [] → step s = .next s) ∧
  (∀ (s : State) (c : Nat) (a : HostAccess) (rest : List Event), s.events = .access c a :: rest →
    c ≠ s.context → step s = .refused (.interleavedUse c)) ∧
  (∀ (s : State) (c : Nat) (rest : List Event), s.events = .handover c :: rest →
    step s = .next { s with events := rest, context := c, reply := .idle }) ∧
  (∀ (s : State) (addr width : Nat) (v : Word), (addr < s.params.base ∨ s.params.base + 0x2000 ≤ addr) →
    hostAccess (.read addr width) s = .refused (.outsideWindow addr) ∧
    hostAccess (.write addr width v) s = .refused (.outsideWindow addr))

/-! ## The CRC function (40_crc.md) -/

/-- R81: the table form and the bit-serial form of the update agree for every accumulator and byte, and give the
source's three vectors: nothing gives 0xFFFF, and the two bodies give the CRCs 0x0A84 and 0xF0C6, whose bytes low first
are the wire bytes `84 0A` and `C6 F0` of that rule. -/
def Obligations.CrcStepIsTheBitSerialUpdate : Prop :=
  (∀ (c : Half) (b : Byte),
    crcStep c b = (c >>> 8) ^^^ crcTable (((c ^^^ b.setWidth 16) &&& 0x00FF).setWidth 8)) ∧
  (∀ (c : Half) (b : Byte), crcStep c b = serialLoop 8 (c ^^^ b.setWidth 16)) ∧
  crcSeeded [] = 0xFFFF ∧
  crcSeeded [0x01, 0x03, 0x00, 0x00, 0x00, 0x01] = 0x0A84 ∧
  crcSeeded [0x11, 0x10, 0x00, 0x01, 0x00, 0x02, 0x04, 0x00, 0x0A, 0x01, 0x02] = 0xF0C6

/-- R82: the CRC of an FBUF range, as the loop of that rule: the start value for length 0, one more step for one more
byte; from the seed for crc16. -/
def Obligations.CrcOfARangeIsTheLoopOverItsBytes : Prop :=
  (∀ (s : State) (c : Half) (i : Nat), crc16From s c i 0 = .ok c) ∧
  (∀ (s : State) (c : Half) (i n : Nat),
    crc16From s c i (n + 1) =
      (crc16From s c i n).bind fun d => (memRead s (i + n)).map fun b => crcStep d b) ∧
  (∀ (s : State) (i n : Nat), crc16 s i n = crc16From s 0xFFFF i n) ∧
  (∀ (s : State) (i : Nat), crc16 s i 0 = .ok 0xFFFF)

/-- R83: T is the loop over k, it is the listed table entry for entry, and the spot checks hold. -/
def Obligations.TheTableIsTheListedOne : Prop :=
  (∀ k : Byte, crcTable k = serialLoop 8 (k.setWidth 16)) ∧
  (∀ k : Byte, crcTableListed[k.toNat]? = some (crcTable k)) ∧ crcTableListed.length = 256 ∧
  crcTable 0x00 = 0x0000 ∧ crcTable 0x01 = 0xC0C1 ∧ crcTable 0x80 = 0xA001 ∧ crcTable 0xFF = 0x4040

/-- R93: the CRC of two ranges in a row, CRC_INIT with CRC_ACC, and CRC_INIT with a CRC_BYTE for every byte. -/
def Obligations.CrcComposes : Prop :=
  (∀ (s : State) (c : Half) (i m n : Nat),
    (crc16From s c i m).bind (fun d => crc16From s d (i + m) n) = crc16From s c i (m + n)) ∧
  (∀ (s : State) (a n : Nat), a + n ≤ s.params.nBuf →
    execAll [.crcInit, .crcAcc a n] s = exec (.crcBuf a n) s) ∧
  (∀ (s : State) (a : Nat) (bs : List Byte), s.Holds a bs → a + bs.length ≤ s.params.nBuf →
    execAll (.crcInit :: bs.map fun b => .crcByte b.toNat) s = exec (.crcBuf a bs.length) s)

/-- R94: the table and the update are linear over exclusive-or. -/
def Obligations.CrcStepIsLinear : Prop :=
  (∀ x y : Byte, crcTable (x ^^^ y) = crcTable x ^^^ crcTable y) ∧
  (∀ (c₁ c₂ : Half) (b₁ b₂ : Byte), crcStep (c₁ ^^^ c₂) (b₁ ^^^ b₂) = crcStep c₁ b₁ ^^^ crcStep c₂ b₂)

/-- R95: a CRC's own two bytes, low then high, bring it to zero; so a frame CRC_APPEND built has residue zero. -/
def Obligations.TheResidueOfAnAppendedFrameIsZero : Prop :=
  (∀ c : Half, crcStep (crcStep c (lo8 c)) (hi8 c) = 0x0000) ∧
  (∀ (a n : Nat) (s t : State), a + n + 2 ≤ s.params.nBuf → exec (.crcAppend a n) s = .next t →
    crc16 t a (n + 2) = .ok 0x0000)

/-- R96: FRAME_CHECK passes a frame of at least 8 bytes that carries the right id exactly when its residue is zero; it
leaves the CRC of the body, not the residue; with the two facts the rule derives this from. -/
def Obligations.FrameCheckPassesExactlyOnResidueZero : Prop :=
  (∀ (a n : Nat) (s : State), 8 ≤ n → a + n ≤ s.params.nBuf → s.Readable a n →
    s.fbuf.read a = some s.slaveId →
    ∃ t, exec (.frameCheck a n) s = .next t ∧ (t.status.chk = .pass ↔ crc16 s a n = .ok 0x0000) ∧
      crc16 s a (n - 2) = .ok t.crc) ∧
  (∀ (c : Half) (lo hi : Byte), crcStep (crcStep c lo) hi = Rz (c ^^^ (hi ++ lo))) ∧
  Function.Bijective Rz ∧ Rz 0x0000 = 0x0000

/-- R84, R89, R90 together: a frame of 8 bytes or more that CRC_APPEND completes passes FRAME_CHECK by the slave it is
addressed to. -/
def Obligations.AppendedFramesPassTheCheck : Prop :=
  ∀ (a n : Nat) (s t : State), 6 ≤ n → a + n + 2 ≤ s.params.nBuf →
    s.fbuf.read a = some s.slaveId → exec (.crcAppend a n) s = .next t →
    exec (.frameCheck a (n + 2)) t =
      .next { t with status := { chk := .pass, cause := .noCause, err := false, errcode := .noError } }

/-! ## What each command of the CRC family does -/

/-- R85: CRC_INIT. -/
def Obligations.CrcInitSetsTheSeed : Prop :=
  (∀ s : State, exec .crcInit s = .next { s with crc := 0xFFFF, status := okStatus s.status }) ∧
  (∀ s : State, command 0x01000000 s = exec .crcInit s) ∧
  (∀ s t : State, exec .crcInit s = .next t → exec .crcInit t = .next t) ∧
  (∀ (w : Word) (s : State), op w = 0x01 → (opA w ≠ 0 ∨ opB w ≠ 0) →
    command w s = .next (failedWith s .reservedField))

/-- R86: CRC_BYTE. -/
def Obligations.CrcByteFeedsOneByte : Prop :=
  (∀ (b : Byte) (s : State),
    exec (.crcByte b.toNat) s = .next { s with crc := crcStep s.crc b, status := okStatus s.status }) ∧
  (∀ (b : Byte) (s : State), command (wordOf 0x02 0 b.toNat) s = exec (.crcByte b.toNat) s) ∧
  (∀ (w : Word) (s : State), op w = 0x02 → (opA w ≠ 0 ∨ opB w / 2 ^ 8 ≠ 0) →
    command w s = .next (failedWith s .reservedField)) ∧
  crcStep 0xFFFF 0x00 = 0x40BF ∧ crcStep 0xFFFF 0x01 = 0x807E ∧
  (∀ s : State, ∃ t, execAll [.crcByte (lo8 s.crc).toNat, .crcByte (hi8 s.crc).toNat] s = .next t ∧
    t.crc = 0x0000)

/-- R87: CRC_BUF. That a range with an unwritten byte has no result is the fault of log entry 3. -/
def Obligations.CrcBufComputesTheCrcOfTheRange : Prop :=
  (∀ (a : Nat) (bs : List Byte) (s : State), a + bs.length ≤ s.params.nBuf → s.Holds a bs →
    exec (.crcBuf a bs.length) s = .next { s with crc := crcSeeded bs, status := okStatus s.status }) ∧
  (∀ (a n : Nat) (s : State), a ≤ 4095 → n ≤ 4095 → command (wordOf 0x03 a n) s = exec (.crcBuf a n) s) ∧
  (∀ (a n : Nat) (s : State), s.params.nBuf < a + n →
    exec (.crcBuf a n) s = .next (failedWith s .outOfBounds)) ∧
  (∀ (a : Nat) (s : State), a ≤ s.params.nBuf →
    exec (.crcBuf a 0) s = .next { s with crc := 0xFFFF, status := okStatus s.status }) ∧
  (∀ (a n : Nat) (s t : State), a + n ≤ s.params.nBuf → ¬ s.Readable a n → exec (.crcBuf a n) s ≠ .next t) ∧
  (∀ s : State, 6 ≤ s.params.nBuf → s.Holds 0 [0x01, 0x03, 0x00, 0x00, 0x00, 0x01] →
    ∃ t, exec (.crcBuf 0 6) s = .next t ∧ t.crc = 0x0A84 ∧ readReg .crcWire t = 0x840A)

/-- R88: CRC_ACC. -/
def Obligations.CrcAccContinuesTheAccumulator : Prop :=
  (∀ (a : Nat) (bs : List Byte) (s : State), a + bs.length ≤ s.params.nBuf → s.Holds a bs →
    exec (.crcAcc a bs.length) s =
      .next { s with crc := bs.foldl crcStep s.crc, status := okStatus s.status }) ∧
  (∀ (a n : Nat) (s : State), a ≤ 4095 → n ≤ 4095 → command (wordOf 0x04 a n) s = exec (.crcAcc a n) s) ∧
  (∀ (a n : Nat) (s : State), s.params.nBuf < a + n →
    exec (.crcAcc a n) s = .next (failedWith s .outOfBounds)) ∧
  (∀ (a : Nat) (s : State), a ≤ s.params.nBuf →
    exec (.crcAcc a 0) s = .next { s with status := okStatus s.status }) ∧
  (∀ (a n : Nat) (s : State), a + n ≤ s.params.nBuf →
    execAll [.crcInit, .crcAcc a n] s = exec (.crcBuf a n) s) ∧
  (∀ (a m n : Nat) (s : State), a + m + n ≤ s.params.nBuf →
    execAll [.crcAcc a m, .crcAcc (a + m) n] s = exec (.crcAcc a (m + n)) s) ∧
  (∀ s : State, 8 ≤ s.params.nBuf → s.crc = 0x0A84 → s.Holds 6 [0x84, 0x0A] →
    ∃ t, exec (.crcAcc 6 2) s = .next t ∧ t.crc = 0x0000)

/-- R89: CRC_APPEND. -/
def Obligations.CrcAppendWritesTheCrcLowByteFirst : Prop :=
  (∀ (a : Nat) (bs : List Byte) (s : State), bs.length ≤ 4095 → a + bs.length + 2 ≤ s.params.nBuf →
    s.Holds a bs →
    ∃ t, exec (.crcAppend a bs.length) s = .next t ∧
      t = { s with crc := crcSeeded bs, len := t.len, fbuf := t.fbuf, status := okStatus s.status } ∧
      t.len.toNat = bs.length + 2 ∧
      ∀ j, t.fbuf.read j =
        if j = a + bs.length then some (lo8 (crcSeeded bs))
        else if j = a + bs.length + 1 then some (hi8 (crcSeeded bs))
        else s.fbuf.read j) ∧
  (∀ (a n : Nat) (s : State), a ≤ 4095 → n ≤ 4095 → command (wordOf 0x05 a n) s = exec (.crcAppend a n) s) ∧
  (∀ (a n : Nat) (s : State), s.params.nBuf < a + n + 2 →
    exec (.crcAppend a n) s = .next (failedWith s .outOfBounds)) ∧
  (∀ (a : Nat) (s : State), a + 2 ≤ s.params.nBuf →
    ∃ t, exec (.crcAppend a 0) s = .next t ∧ t.Holds a [0xFF, 0xFF] ∧ t.len = 2) ∧
  (∀ s : State, 7 ≤ s.params.nBuf → s.Holds 0 [0x01, 0x03, 0x02, 0x00, 0x01] →
    ∃ t, exec (.crcAppend 0 5) s = .next t ∧ t.Holds 5 [0x79, 0x84] ∧ t.crc = 0x8479 ∧ t.len = 7)

/-- R90: FRAME_CHECK, branch by branch. -/
def Obligations.FrameCheckRunsTheValidationGate : Prop :=
  (∀ (a n : Nat) (s : State), a + n ≤ s.params.nBuf → n < 8 →
    exec (.frameCheck a n) s =
      .next { s with status := { chk := .invalid, cause := .tooShort, err := false, errcode := .noError } }) ∧
  (∀ (a n : Nat) (id : Byte) (s : State), a + n ≤ s.params.nBuf → 8 ≤ n →
    s.fbuf.read a = some id → id ≠ s.slaveId →
    exec (.frameCheck a n) s =
      .next { s with status := { chk := .notAddressed, cause := .wrongId, err := false, errcode := .noError } }) ∧
  (∀ (a : Nat) (body : List Byte) (lo hi : Byte) (s : State), a + (body.length + 2) ≤ s.params.nBuf →
    8 ≤ body.length + 2 → s.Holds a (body ++ [lo, hi]) → body.head? = some s.slaveId →
    (lo = lo8 (crcSeeded body) ∧ hi = hi8 (crcSeeded body) →
      exec (.frameCheck a (body.length + 2)) s = .next { s with
        crc := crcSeeded body,
        status := { chk := .pass, cause := .noCause, err := false, errcode := .noError } }) ∧
    (¬ (lo = lo8 (crcSeeded body) ∧ hi = hi8 (crcSeeded body)) →
      exec (.frameCheck a (body.length + 2)) s = .next { s with
        crc := crcSeeded body,
        status := { chk := .invalid, cause := .crcMismatch, err := false, errcode := .noError } }) ∧
    ((lo = lo8 (crcSeeded body) ∧ hi = hi8 (crcSeeded body)) ↔ crcSeeded (body ++ [lo, hi]) = 0x0000)) ∧
  (∀ (a n : Nat) (s : State), a ≤ 4095 → n ≤ 4095 → command (wordOf 0x06 a n) s = exec (.frameCheck a n) s) ∧
  (∀ (a n : Nat) (s : State), s.params.nBuf < a + n →
    exec (.frameCheck a n) s = .next (failedWith s .outOfBounds)) ∧
  (∀ s : State, 8 ≤ s.params.nBuf → s.slaveId = 0x01 →
    s.Holds 0 [0x01, 0x03, 0x00, 0x00, 0x00, 0x01, 0x84, 0x0A] →
    ∃ t, exec (.frameCheck 0 8) s = .next t ∧ t.status.chk = .pass ∧ t.status.cause = .noCause ∧ t.crc = 0x0A84)

/-! ## The codec (41_codec.md) -/

/-- R110: the 16-bit value at an index is big-endian. -/
def Obligations.U16AtIsBigEndian : Prop :=
  ∀ (s : State) (i : Nat) (b₀ b₁ : Byte), i + 2 ≤ s.params.nBuf → s.Holds i [b₀, b₁] →
    ∃ v, u16At s i = .ok v ∧ hi8 v = b₀ ∧ lo8 v = b₁

/-- R111: REG_TO_U16. -/
def Obligations.RegToU16ReadsOneBigEndianRegister : Prop :=
  (∀ (a : Nat) (b₀ b₁ : Byte) (s : State), a + 2 ≤ s.params.nBuf → s.Holds a [b₀, b₁] →
    exec (.regToU16 a) s = .next { s with
      result := BitVec.ofNat 32 (b₀.toNat * 2 ^ 8 + b₁.toNat), status := okStatus s.status }) ∧
  (∀ (a : Nat) (s : State), a ≤ 4095 → command (wordOf 0x10 a 0) s = exec (.regToU16 a) s) ∧
  (∀ (w : Word) (s : State), op w = 0x10 → opB w ≠ 0 → command w s = .next (failedWith s .reservedField)) ∧
  (∀ (a : Nat) (s : State), s.params.nBuf < a + 2 →
    exec (.regToU16 a) s = .next (failedWith s .outOfBounds))

/-- R112: U16_TO_REG. -/
def Obligations.U16ToRegWritesOneBigEndianRegister : Prop :=
  (∀ (a : Nat) (s : State), a + 2 ≤ s.params.nBuf →
    ∃ t, exec (.u16ToReg a) s = .next t ∧
      t = { s with fbuf := t.fbuf, status := okStatus s.status } ∧
      ∀ j, t.fbuf.read j =
        if j = a then some (hi8 s.data) else if j = a + 1 then some (lo8 s.data) else s.fbuf.read j) ∧
  (∀ (a : Nat) (s : State), a ≤ 4095 → command (wordOf 0x11 a 0) s = exec (.u16ToReg a) s) ∧
  (∀ (w : Word) (s : State), op w = 0x11 → opB w ≠ 0 → command w s = .next (failedWith s .reservedField)) ∧
  (∀ (a : Nat) (s : State), s.params.nBuf < a + 2 →
    exec (.u16ToReg a) s = .next (failedWith s .outOfBounds))

/-- R113: F32_WORD_SWAP, under both values of F32_WORD_ORDER. -/
def Obligations.F32WordSwapJoinsTwoRegisters : Prop :=
  (∀ (a : Nat) (b₀ b₁ b₂ b₃ : Byte) (s : State), a + 4 ≤ s.params.nBuf → s.Holds a [b₀, b₁, b₂, b₃] →
    s.params.wordOrder = .lowWordFirst →
    exec (.f32WordSwap a) s = .next { s with
      result := BitVec.ofNat 32 (b₂.toNat * 2 ^ 24 + b₃.toNat * 2 ^ 16 + b₀.toNat * 2 ^ 8 + b₁.toNat),
      status := okStatus s.status }) ∧
  (∀ (a : Nat) (b₀ b₁ b₂ b₃ : Byte) (s : State), a + 4 ≤ s.params.nBuf → s.Holds a [b₀, b₁, b₂, b₃] →
    s.params.wordOrder = .highWordFirst →
    exec (.f32WordSwap a) s = .next { s with
      result := BitVec.ofNat 32 (b₀.toNat * 2 ^ 24 + b₁.toNat * 2 ^ 16 + b₂.toNat * 2 ^ 8 + b₃.toNat),
      status := okStatus s.status }) ∧
  (∀ (a : Nat) (s : State), a ≤ 4095 → command (wordOf 0x12 a 0) s = exec (.f32WordSwap a) s) ∧
  (∀ (w : Word) (s : State), op w = 0x12 → opB w ≠ 0 → command w s = .next (failedWith s .reservedField)) ∧
  (∀ (a : Nat) (s : State), s.params.nBuf < a + 4 →
    exec (.f32WordSwap a) s = .next (failedWith s .outOfBounds))

/-- R114: the three round trips of the codec. -/
def Obligations.CodecRoundTrips : Prop :=
  (∀ (a : Nat) (s t : State), a + 2 ≤ s.params.nBuf → exec (.u16ToReg a) s = .next t →
    ∃ u, exec (.regToU16 a) t = .next u ∧ u.result = s.data.setWidth 32) ∧
  (∀ (a : Nat) (s t : State), a + 2 ≤ s.params.nBuf → exec (.regToU16 a) s = .next t →
    ∃ u v, writeReg .data t.result t = .next u ∧ exec (.u16ToReg a) u = .next v ∧
      ∀ j, v.fbuf.read j = s.fbuf.read j) ∧
  (∀ (a : Nat) (s t₀ t₁ : State), a + 4 ≤ s.params.nBuf → s.params.wordOrder = .lowWordFirst →
    exec (.regToU16 a) s = .next t₀ → exec (.regToU16 (a + 2)) s = .next t₁ →
    ∃ t, exec (.f32WordSwap a) s = .next t ∧
      t.result = t₁.result.setWidth 16 ++ t₀.result.setWidth 16)

/-! ## Frames and dependence (10_state.md R33) -/

/-- The commands that store nothing change, of all the state, only CRC, RESULT and STATUS, each only where R33 lists it;
every FBUF byte reads as before. -/
def Obligations.CommandsThatStoreNothingKeepTheRest : Prop :=
  ∀ (i : Instr) (s t : State), exec i s = .next t →
    ((∃ b, i = .crcByte b) ∨ i = .crcInit ∨ (∃ a n, i = .crcBuf a n) ∨ (∃ a n, i = .crcAcc a n) →
      (∀ j, t.fbuf.read j = s.fbuf.read j) ∧
      t = { s with crc := t.crc, status := { s.status with err := t.status.err, errcode := t.status.errcode } }) ∧
    ((∃ a n, i = .frameCheck a n) →
      (∀ j, t.fbuf.read j = s.fbuf.read j) ∧ t = { s with crc := t.crc, status := t.status }) ∧
    ((∃ a, i = .regToU16 a) ∨ (∃ a, i = .f32WordSwap a) →
      (∀ j, t.fbuf.read j = s.fbuf.read j) ∧
      t = { s with
        result := t.result, status := { s.status with err := t.status.err, errcode := t.status.errcode } })

/-- The two commands that store, CRC_APPEND at index a + n and U16_TO_REG at index a, change two FBUF bytes there and no
other byte, and of the rest only what R33 lists. -/
def Obligations.CommandsThatStoreKeepTheRest : Prop :=
  (∀ (a n : Nat) (s t : State), exec (.crcAppend a n) s = .next t →
    (∀ j, (j < a + n ∨ a + n + 2 ≤ j) → t.fbuf.read j = s.fbuf.read j) ∧
    t = { s with
      fbuf := t.fbuf, crc := t.crc, len := t.len,
      status := { s.status with err := t.status.err, errcode := t.status.errcode } }) ∧
  (∀ (a : Nat) (s t : State), exec (.u16ToReg a) s = .next t →
    (∀ j, (j < a ∨ a + 2 ≤ j) → t.fbuf.read j = s.fbuf.read j) ∧
    t = { s with
      fbuf := t.fbuf,
      status := { s.status with err := t.status.err, errcode := t.status.errcode } })

/-- R33's "reads" column: what a command writes, and whether it succeeds, depends on nothing but the parameters and what
that column lists. -/
def Obligations.CommandsDependOnlyOnWhatTheyRead : Prop :=
  ∀ (i : Instr) (s t : State), SameReads i s t →
    (∃ f, exec i s = .fault f ∧ exec i t = .fault f) ∨
    (∃ s' t', exec i s = .next s' ∧ exec i t = .next t' ∧
      s'.status.err = t'.status.err ∧ s'.status.errcode = t'.status.errcode ∧
      (s'.status.err = false → SameWrites i s t s' t'))

/-- Every command completes in every state in which the FBUF bytes it reads at most have a value. -/
def Obligations.CommandsCompleteOnReadableRanges : Prop :=
  ∀ (i : Instr) (s : State), s.Readable (readRangeOf i).1 (readRangeOf i).2 → ∃ t, exec i s = .next t

/-- A command never ends in a refusal, and faults only at an FBUF byte of its range that no write has reached since
reset (R55; the fault is the treatment the spec recommends, log entry 3). -/
def Obligations.CommandsStopOnlyAtUnwrittenBytes : Prop :=
  ∀ (i : Instr) (s : State),
    (∀ r, exec i s ≠ .refused r) ∧
    (∀ f, exec i s = .fault f → ∃ k < (readRangeOf i).2,
      f = .unwrittenByte ((readRangeOf i).1 + k) ∧ s.fbuf.read ((readRangeOf i).1 + k) = none ∧
      (readRangeOf i).1 + k < s.params.nBuf)

/-! ## The host window (20_memory.md, 10_state.md) -/

/-- R43: in the window, an access is a bus error exactly when its offset is unmapped, its width is not the one R42
requires, or its offset is not aligned to its width. A bus error ends in a fault, so it leaves no changed state. -/
def Obligations.BusErrorsAreExactlyTheInadmissibleAccesses : Prop :=
  ∀ (s : State) (off width : Nat) (v : Word), off < 0x2000 →
    let unmapped := (0x024 ≤ off ∧ off ≤ 0x0FFF) ∨ 0x1000 + s.params.nBuf ≤ off
    let wrongWidth := (off < 0x024 ∧ width ≠ 32) ∨ (0x1000 ≤ off ∧ width ≠ 8)
    let misaligned := off < 0x024 ∧ off % 4 ≠ 0
    (hostAccess (.read (s.params.base + off) width) s = .fault (.busError off width) ↔
      (unmapped ∨ wrongWidth ∨ misaligned)) ∧
    (hostAccess (.write (s.params.base + off) width v) s = .fault (.busError off width) ↔
      (unmapped ∨ wrongWidth ∨ misaligned))

/-- R41's register part: what a host read of each register returns, as a number; nothing but the reply, the
model's own field (log entry 9), changes. -/
def Obligations.HostReadsOfEveryRegister : Prop :=
  ∀ s : State, s.params.Legal →
    let reads := fun (off value : Nat) =>
      hostAccess (.read (s.params.base + off) 32) s = .next { s with reply := .data (BitVec.ofNat 32 value) }
    reads 0x000 0 ∧
    reads 0x008 s.crc.toNat ∧
    reads 0x00C (s.crc.toNat % 2 ^ 8 * 2 ^ 8 + s.crc.toNat / 2 ^ 8) ∧
    reads 0x010 s.slaveId.toNat ∧
    reads 0x014 s.data.toNat ∧
    reads 0x018 s.result.toNat ∧
    reads 0x01C s.len.toNat ∧
    reads 0x020 s.params.nBuf

/-- R28: a host read of STATUS, field by field. -/
def Obligations.HostReadOfStatus : Prop :=
  ∀ s : State, ∃ v : Word,
    hostAccess (.read (s.params.base + 0x004) 32) s = .next { s with reply := .data v } ∧
    v.toNat % 4 = (match s.status.chk with
      | .pass => 0 | .notAddressed => 1 | .invalid => 2 | .unchecked => 3) ∧
    v.toNat / 4 % 4 = (match s.status.cause with
      | .noCause => 0 | .tooShort => 1 | .wrongId => 2 | .crcMismatch => 3) ∧
    v.toNat / 16 % 2 = (if s.status.err then 1 else 0) ∧
    v.toNat / 32 % 8 = (match s.status.errcode with
      | .noError => 0 | .illegalOpcode => 1 | .reservedField => 2 | .outOfBounds => 3) ∧
    v.toNat / 256 = 0

/-- R21, R23, R25 and the read-only registers of R41: what a host write of each register does. (The reply is the
model's own field, log entry 9.) -/
def Obligations.HostWritesOfEveryRegister : Prop :=
  ∀ (s : State) (v : Word),
    let writes := fun (off : Nat) (t : State) =>
      hostAccess (.write (s.params.base + off) 32 v) s = .next { t with reply := .written }
    writes 0x008 { s with crc := BitVec.ofNat 16 (v.toNat % 2 ^ 16) } ∧
    writes 0x010 { s with slaveId := BitVec.ofNat 8 (v.toNat % 2 ^ 8) } ∧
    writes 0x014 { s with data := BitVec.ofNat 16 (v.toNat % 2 ^ 16) } ∧
    writes 0x004 s ∧ writes 0x00C s ∧ writes 0x018 s ∧ writes 0x01C s ∧ writes 0x020 s

/-- R22: CRC_WIRE. -/
def Obligations.CrcWireIsTheSwappedCrc : Prop :=
  (∀ s : State, readReg .crcWire s = BitVec.ofNat 32 ((lo8 s.crc).toNat * 2 ^ 8 + (hi8 s.crc).toNat)) ∧
  (∀ s : State, hostAccess (.read (s.params.base + 0x00C) 32) s =
    .next { s with reply := .data (readReg .crcWire s) }) ∧
  (∀ (s : State) (v : Word), hostAccess (.write (s.params.base + 0x00C) 32 v) s =
    .next { s with reply := .written }) ∧
  readReg .crcWire State.reset = 0xFFFF ∧
  (∀ (a n : Nat) (s t : State), a + n + 2 ≤ s.params.nBuf → exec (.crcAppend a n) s = .next t →
    u16At t (a + n) = .ok ((readReg .crcWire t).setWidth 16)) ∧
  (∀ s : State, s.crc = 0x0A84 → readReg .crcWire s = 0x840A)

/-- R30: CMD. -/
def Obligations.CmdIsAWriteOnlyTrigger : Prop :=
  (∀ s : State, hostAccess (.read s.params.base 32) s = .next { s with reply := .data 0x00000000 }) ∧
  (∀ (s : State) (w : Word),
    hostAccess (.write s.params.base 32 w) s = command w { s with reply := .written }) ∧
  (∀ (s : State) (w : Word),
    (∀ off width, command w s ≠ .fault (.busError off width)) ∧ (∀ r, command w s ≠ .refused r))

/-- R31: CONFIG holds N_BUF and never changes, reset included. -/
def Obligations.ConfigIsAConstant : Prop :=
  (∀ s : State, s.params.Legal → ∃ v : Word,
    hostAccess (.read (s.params.base + 0x020) 32) s = .next { s with reply := .data v } ∧
    v.toNat % 2 ^ 13 = s.params.nBuf ∧ v.toNat / 2 ^ 13 = 0) ∧
  (∀ (s : State) (v : Word), hostAccess (.write (s.params.base + 0x020) 32 v) s =
    .next { s with reply := .written }) ∧
  (∀ s t : State, step s = .next t → t.params = s.params)

/-- R40: FBUF index i and window offset 0x1000 + i are one byte: a host write there changes that byte and no other, and a
host read there returns it, or faults where the byte has no value (log entry 3). -/
def Obligations.FbufIndexAndOffsetNameOneByte : Prop :=
  ∀ (s : State) (i : Nat), s.params.Legal → i < s.params.nBuf →
    (∀ b, s.fbuf.read i = some b →
      hostAccess (.read (s.params.base + (0x1000 + i)) 8) s =
        .next { s with reply := .data (BitVec.ofNat 32 b.toNat) }) ∧
    (s.fbuf.read i = none →
      hostAccess (.read (s.params.base + (0x1000 + i)) 8) s = .fault (.unwrittenByte i)) ∧
    (∀ v : Word, ∃ t, hostAccess (.write (s.params.base + (0x1000 + i)) 8 v) s = .next t ∧
      t = { s with fbuf := t.fbuf, reply := .written } ∧
      ∀ j, t.fbuf.read j = if j = i then some (BitVec.ofNat 8 (v.toNat % 2 ^ 8)) else s.fbuf.read j)

/-- R45, second bullet: a host read changes nothing, so the same read again gives the same outcome. (The reply field is
the model's own, log entry 9.) -/
def Obligations.HostReadsHaveNoSideEffect : Prop :=
  ∀ (addr width : Nat) (s t : State), hostAccess (.read addr width) s = .next t →
    t = { s with reply := t.reply } ∧ hostAccess (.read addr width) t = .next t

/-! ## Who writes what, over every step (10_state.md R21 to R28, R33) -/

/-- RESULT changes only at a REG_TO_U16, an F32_WORD_SWAP or a reset; LEN only at a CRC_APPEND or a reset. -/
def Obligations.ResultAndLenChangeOnlyByTheirWriters : Prop :=
  ∀ s t : State, step s = .next t →
    (t.result ≠ s.result → NextIsReset s ∨ NextIsCommand s 0x10 ∨ NextIsCommand s 0x12) ∧
    (t.len ≠ s.len → NextIsReset s ∨ NextIsCommand s 0x05)

/-- DATA and SLAVE_ID change only at a host write of that register or a reset: no command writes them. -/
def Obligations.DataAndSlaveIdChangeOnlyByTheHost : Prop :=
  ∀ s t : State, step s = .next t →
    (t.data ≠ s.data → NextIsReset s ∨ ∃ v, NextIsWrite s 0x014 v) ∧
    (t.slaveId ≠ s.slaveId → NextIsReset s ∨ ∃ v, NextIsWrite s 0x010 v)

/-- CRC changes only at a host write of CRC, one of the six commands of the CRC family, or a reset. -/
def Obligations.CrcChangesOnlyByItsWriters : Prop :=
  ∀ s t : State, step s = .next t → t.crc ≠ s.crc →
    NextIsReset s ∨ (∃ v, NextIsWrite s 0x008 v) ∨ (∃ o ∈ [0x01, 0x02, 0x03, 0x04, 0x05, 0x06], NextIsCommand s o)

/-- CHK and CAUSE change only at a FRAME_CHECK that ends in no command error, or a reset; ERR and ERRCODE only at a CMD
write or a reset. -/
def Obligations.StatusFieldsChangeOnlyByTheirWriters : Prop :=
  ∀ s t : State, step s = .next t →
    ((t.status.chk ≠ s.status.chk ∨ t.status.cause ≠ s.status.cause) →
      NextIsReset s ∨ (NextIsCommand s 0x06 ∧ t.status.err = false)) ∧
    ((t.status.err ≠ s.status.err ∨ t.status.errcode ≠ s.status.errcode) →
      NextIsReset s ∨ ∃ w, NextIsWrite s 0x000 w)

/-- An FBUF byte changes only at a host write of that byte, a CRC_APPEND whose CRC field it lies in, a U16_TO_REG whose
register it lies in, or a reset. -/
def Obligations.FbufBytesChangeOnlyByTheirWriters : Prop :=
  ∀ (s t : State) (j : Nat), step s = .next t → t.fbuf.read j ≠ s.fbuf.read j →
    NextIsReset s ∨ NextIsByteWrite s (0x1000 + j) ∨
    (∃ w, NextIsWrite s 0x000 w ∧ op w = 0x05 ∧ (j = opA w + opB w ∨ j = opA w + opB w + 1)) ∨
    (∃ w, NextIsWrite s 0x000 w ∧ op w = 0x11 ∧ (j = opA w ∨ j = opA w + 1))

/-! ## Reset and the invariant (70_reset_and_hazards.md) -/

/-- R150: the reset event gives every register its reset value, leaves no FBUF byte with a value (the form in which this
model has "unspecified", log entries 3 and 4), keeps the parameters, and the step then goes on with what is left. -/
def Obligations.ResetSetsTheTable : Prop :=
  ∀ (s : State) (rest : List Event), s.events = .reset :: rest →
    ∃ t, step s = .next t ∧
      t.crc = 0xFFFF ∧ readReg .crcWire t = 0xFFFF ∧ t.data = 0x0000 ∧ t.result = 0x00000000 ∧
      t.slaveId = 0x00 ∧ t.len = 0x0000 ∧ (∀ i, t.fbuf.read i = none) ∧
      t.status.chk = .unchecked ∧ t.status.cause = .noCause ∧ t.status.err = false ∧
      t.status.errcode = .noError ∧ readReg .status t = 0x03 ∧
      readReg .config t = readReg .config s ∧ t.params = s.params ∧ t.events = rest

/-- The state after reset that a run starts from has the table's values too (R150); no FBUF byte has a value there (log
entry 3). -/
def Obligations.TheStartStateHasTheTablesValues : Prop :=
  State.reset.crc = 0xFFFF ∧ State.reset.data = 0x0000 ∧ State.reset.result = 0x00000000 ∧
  State.reset.slaveId = 0x00 ∧ State.reset.len = 0x0000 ∧ readReg .status State.reset = 0x03 ∧
  (∀ i, State.reset.fbuf.read i = none)

/-- The start state meets the invariant. -/
def Obligations.TheStartStateMeetsTheInvariant : Prop := State.reset.Inv

/-- Every step from every state that meets the invariant gives a state that meets it: the parameters stay legal, FBUF
stays in canonical form and inside its size, STATUS keeps to the five legal (CHK, CAUSE) pairs with ERR set exactly when
ERRCODE is not 0, and LEN is 0 or the length of a frame that fits FBUF. -/
def Obligations.EveryStepKeepsTheInvariant : Prop :=
  ∀ s t : State, s.Inv → step s = .next t → t.Inv

/-- So does every run, from any such state, whatever the outside does. -/
def Obligations.EveryRunKeepsTheInvariant : Prop :=
  ∀ (k : Nat) (s t : State), s.Inv → core.run k s = .next t → t.Inv

/-! ## Host programs (30_encoding.md R68, R69) -/

/-- R68: a command statement is a 32-bit write of its word to CMD, and an operand that does not fit its field is an
assembly error, which no word stands for. -/
def Obligations.CommandStatementsAreCmdWrites : Prop :=
  (∀ (base : Nat) (i : Instr), i.wf = true →
    ∃ w, (Stmt.cmd i).access base = some (.write base 32 w) ∧ decode w = .ok i) ∧
  (∀ (base : Nat) (i : Instr), i.wf = false → (Stmt.cmd i).access base = none ∧ ∀ w, decode w ≠ .ok i) ∧
  (∀ b : Nat, 255 < b → (Instr.crcByte b).wf = false) ∧
  (∀ a n : Nat, 4095 < a ∨ 4095 < n →
    (Instr.crcBuf a n).wf = false ∧ (Instr.crcAcc a n).wf = false ∧ (Instr.crcAppend a n).wf = false ∧
    (Instr.frameCheck a n).wf = false) ∧
  (∀ a : Nat, 4095 < a →
    (Instr.regToU16 a).wf = false ∧ (Instr.u16ToReg a).wf = false ∧ (Instr.f32WordSwap a).wf = false)

/-- R69, EXCFRAME: run as the four accesses of its expansion, the first of which reads f, it turns the first bytes of a
request into the exception frame `id, f | 0x80, code, crc_lo, crc_hi` and leaves LEN = 5; the f it writes is the byte it
read, whatever that is. -/
def Obligations.ExcFrameBuildsTheExceptionFrame : Prop :=
  ∀ (s : State) (id f code : Byte), s.params.Legal → s.events = [] → s.Holds 0 [id, f] →
    ∃ as t, assemble s.params.base (Pseudo.excFrame code).expand = some as ∧
      core.run 4 (s.withAccesses as) = .next t ∧
      t.Holds 0 [id, f ||| 0x80, code, lo8 (crcSeeded [id, f ||| 0x80, code]),
        hi8 (crcSeeded [id, f ||| 0x80, code])] ∧
      t.len = 5 ∧ t.events = []

/-- R69, PUT16 then GET16 at the same index: the value read back is the low 16 bits of the value put. -/
def Obligations.Get16ReadsWhatPut16Wrote : Prop :=
  ∀ (s : State) (i : Nat) (v : Word), s.params.Legal → i + 2 ≤ s.params.nBuf → s.events = [] →
    i ≤ 4095 →
    ∃ as t, assemble s.params.base ((Pseudo.put16 i v).expand ++ (Pseudo.get16 i).expand) = some as ∧
      core.run 4 (s.withAccesses as) = .next t ∧
      t.reply = .data (BitVec.ofNat 32 (v.toNat % 2 ^ 16))

/-- R50, R69: the write half of a host-side read-modify-write is an access of its own. After a read that returned f, the
write of `f | mask` is the plain write of that value, so every statement about plain writes covers it; it is refused
where no read came before it (log entry 13). -/
def Obligations.WritesOfAReadValueArePlainWrites : Prop :=
  (∀ (s : State) (addr width : Nat) (f mask : Word), s.reply = .data f →
    hostAccess (.writeReadOr addr width mask) s = hostAccess (.write addr width (f ||| mask)) s) ∧
  (∀ (s : State) (addr width : Nat) (mask : Word), (s.reply = .idle ∨ s.reply = .written) →
    hostAccess (.writeReadOr addr width mask) s = .refused .noReadValue) ∧
  (∀ (s t : State) (addr width : Nat), hostAccess (.read addr width) s = .next t → ∃ f, t.reply = .data f)
end

