-- ==== Sys2Proof/Laws/State.lean ====
section
/-! SUPPORT. One lemma per field per named update of State, so that no proof unfolds a record update. -/

namespace Sys2Proof.Machine

variable (s : State)

/-! ### State.setCrc -/

@[simp] theorem State.setCrc_crc (v : Half) : (s.setCrc v).crc = v := rfl
@[simp] theorem State.setCrc_data (v : Half) : (s.setCrc v).data = s.data := rfl
@[simp] theorem State.setCrc_result (v : Half) : (s.setCrc v).result = s.result := rfl
@[simp] theorem State.setCrc_slaveId (v : Half) : (s.setCrc v).slaveId = s.slaveId := rfl
@[simp] theorem State.setCrc_len (v : Half) : (s.setCrc v).len = s.len := rfl
@[simp] theorem State.setCrc_status (v : Half) : (s.setCrc v).status = s.status := rfl
@[simp] theorem State.setCrc_fbuf (v : Half) : (s.setCrc v).fbuf = s.fbuf := rfl
@[simp] theorem State.setCrc_params (v : Half) : (s.setCrc v).params = s.params := rfl
@[simp] theorem State.setCrc_events (v : Half) : (s.setCrc v).events = s.events := rfl
@[simp] theorem State.setCrc_reply (v : Half) : (s.setCrc v).reply = s.reply := rfl
@[simp] theorem State.setCrc_context (v : Half) : (s.setCrc v).context = s.context := rfl

/-! ### State.setData -/

@[simp] theorem State.setData_crc (v : Half) : (s.setData v).crc = s.crc := rfl
@[simp] theorem State.setData_data (v : Half) : (s.setData v).data = v := rfl
@[simp] theorem State.setData_result (v : Half) : (s.setData v).result = s.result := rfl
@[simp] theorem State.setData_slaveId (v : Half) : (s.setData v).slaveId = s.slaveId := rfl
@[simp] theorem State.setData_len (v : Half) : (s.setData v).len = s.len := rfl
@[simp] theorem State.setData_status (v : Half) : (s.setData v).status = s.status := rfl
@[simp] theorem State.setData_fbuf (v : Half) : (s.setData v).fbuf = s.fbuf := rfl
@[simp] theorem State.setData_params (v : Half) : (s.setData v).params = s.params := rfl
@[simp] theorem State.setData_events (v : Half) : (s.setData v).events = s.events := rfl
@[simp] theorem State.setData_reply (v : Half) : (s.setData v).reply = s.reply := rfl
@[simp] theorem State.setData_context (v : Half) : (s.setData v).context = s.context := rfl

/-! ### State.setResult -/

@[simp] theorem State.setResult_crc (v : Word) : (s.setResult v).crc = s.crc := rfl
@[simp] theorem State.setResult_data (v : Word) : (s.setResult v).data = s.data := rfl
@[simp] theorem State.setResult_result (v : Word) : (s.setResult v).result = v := rfl
@[simp] theorem State.setResult_slaveId (v : Word) : (s.setResult v).slaveId = s.slaveId := rfl
@[simp] theorem State.setResult_len (v : Word) : (s.setResult v).len = s.len := rfl
@[simp] theorem State.setResult_status (v : Word) : (s.setResult v).status = s.status := rfl
@[simp] theorem State.setResult_fbuf (v : Word) : (s.setResult v).fbuf = s.fbuf := rfl
@[simp] theorem State.setResult_params (v : Word) : (s.setResult v).params = s.params := rfl
@[simp] theorem State.setResult_events (v : Word) : (s.setResult v).events = s.events := rfl
@[simp] theorem State.setResult_reply (v : Word) : (s.setResult v).reply = s.reply := rfl
@[simp] theorem State.setResult_context (v : Word) : (s.setResult v).context = s.context := rfl

/-! ### State.setSlaveId -/

@[simp] theorem State.setSlaveId_crc (v : Byte) : (s.setSlaveId v).crc = s.crc := rfl
@[simp] theorem State.setSlaveId_data (v : Byte) : (s.setSlaveId v).data = s.data := rfl
@[simp] theorem State.setSlaveId_result (v : Byte) : (s.setSlaveId v).result = s.result := rfl
@[simp] theorem State.setSlaveId_slaveId (v : Byte) : (s.setSlaveId v).slaveId = v := rfl
@[simp] theorem State.setSlaveId_len (v : Byte) : (s.setSlaveId v).len = s.len := rfl
@[simp] theorem State.setSlaveId_status (v : Byte) : (s.setSlaveId v).status = s.status := rfl
@[simp] theorem State.setSlaveId_fbuf (v : Byte) : (s.setSlaveId v).fbuf = s.fbuf := rfl
@[simp] theorem State.setSlaveId_params (v : Byte) : (s.setSlaveId v).params = s.params := rfl
@[simp] theorem State.setSlaveId_events (v : Byte) : (s.setSlaveId v).events = s.events := rfl
@[simp] theorem State.setSlaveId_reply (v : Byte) : (s.setSlaveId v).reply = s.reply := rfl
@[simp] theorem State.setSlaveId_context (v : Byte) : (s.setSlaveId v).context = s.context := rfl

/-! ### State.setLen -/

@[simp] theorem State.setLen_crc (n : Nat) : (s.setLen n).crc = s.crc := rfl
@[simp] theorem State.setLen_data (n : Nat) : (s.setLen n).data = s.data := rfl
@[simp] theorem State.setLen_result (n : Nat) : (s.setLen n).result = s.result := rfl
@[simp] theorem State.setLen_slaveId (n : Nat) : (s.setLen n).slaveId = s.slaveId := rfl
@[simp] theorem State.setLen_len (n : Nat) : (s.setLen n).len = BitVec.ofNat 16 n := rfl
@[simp] theorem State.setLen_status (n : Nat) : (s.setLen n).status = s.status := rfl
@[simp] theorem State.setLen_fbuf (n : Nat) : (s.setLen n).fbuf = s.fbuf := rfl
@[simp] theorem State.setLen_params (n : Nat) : (s.setLen n).params = s.params := rfl
@[simp] theorem State.setLen_events (n : Nat) : (s.setLen n).events = s.events := rfl
@[simp] theorem State.setLen_reply (n : Nat) : (s.setLen n).reply = s.reply := rfl
@[simp] theorem State.setLen_context (n : Nat) : (s.setLen n).context = s.context := rfl

/-! ### State.setCheck -/

@[simp] theorem State.setCheck_crc (k : Chk) (c : Cause) : (s.setCheck k c).crc = s.crc := rfl
@[simp] theorem State.setCheck_data (k : Chk) (c : Cause) : (s.setCheck k c).data = s.data := rfl
@[simp] theorem State.setCheck_result (k : Chk) (c : Cause) : (s.setCheck k c).result = s.result := rfl
@[simp] theorem State.setCheck_slaveId (k : Chk) (c : Cause) : (s.setCheck k c).slaveId = s.slaveId := rfl
@[simp] theorem State.setCheck_len (k : Chk) (c : Cause) : (s.setCheck k c).len = s.len := rfl
@[simp] theorem State.setCheck_status (k : Chk) (c : Cause) : (s.setCheck k c).status = s.status.checked k c := rfl
@[simp] theorem State.setCheck_fbuf (k : Chk) (c : Cause) : (s.setCheck k c).fbuf = s.fbuf := rfl
@[simp] theorem State.setCheck_params (k : Chk) (c : Cause) : (s.setCheck k c).params = s.params := rfl
@[simp] theorem State.setCheck_events (k : Chk) (c : Cause) : (s.setCheck k c).events = s.events := rfl
@[simp] theorem State.setCheck_reply (k : Chk) (c : Cause) : (s.setCheck k c).reply = s.reply := rfl
@[simp] theorem State.setCheck_context (k : Chk) (c : Cause) : (s.setCheck k c).context = s.context := rfl

/-! ### State.setReply -/

@[simp] theorem State.setReply_crc (r : Reply) : (s.setReply r).crc = s.crc := rfl
@[simp] theorem State.setReply_data (r : Reply) : (s.setReply r).data = s.data := rfl
@[simp] theorem State.setReply_result (r : Reply) : (s.setReply r).result = s.result := rfl
@[simp] theorem State.setReply_slaveId (r : Reply) : (s.setReply r).slaveId = s.slaveId := rfl
@[simp] theorem State.setReply_len (r : Reply) : (s.setReply r).len = s.len := rfl
@[simp] theorem State.setReply_status (r : Reply) : (s.setReply r).status = s.status := rfl
@[simp] theorem State.setReply_fbuf (r : Reply) : (s.setReply r).fbuf = s.fbuf := rfl
@[simp] theorem State.setReply_params (r : Reply) : (s.setReply r).params = s.params := rfl
@[simp] theorem State.setReply_events (r : Reply) : (s.setReply r).events = s.events := rfl
@[simp] theorem State.setReply_reply (r : Reply) : (s.setReply r).reply = r := rfl
@[simp] theorem State.setReply_context (r : Reply) : (s.setReply r).context = s.context := rfl

/-! ### State.memWrite -/

@[simp] theorem State.memWrite_crc (i : Nat) (v : Byte) : (s.memWrite i v).crc = s.crc := rfl
@[simp] theorem State.memWrite_data (i : Nat) (v : Byte) : (s.memWrite i v).data = s.data := rfl
@[simp] theorem State.memWrite_result (i : Nat) (v : Byte) : (s.memWrite i v).result = s.result := rfl
@[simp] theorem State.memWrite_slaveId (i : Nat) (v : Byte) : (s.memWrite i v).slaveId = s.slaveId := rfl
@[simp] theorem State.memWrite_len (i : Nat) (v : Byte) : (s.memWrite i v).len = s.len := rfl
@[simp] theorem State.memWrite_status (i : Nat) (v : Byte) : (s.memWrite i v).status = s.status := rfl
@[simp] theorem State.memWrite_fbuf (i : Nat) (v : Byte) : (s.memWrite i v).fbuf = s.fbuf.write i v := rfl
@[simp] theorem State.memWrite_params (i : Nat) (v : Byte) : (s.memWrite i v).params = s.params := rfl
@[simp] theorem State.memWrite_events (i : Nat) (v : Byte) : (s.memWrite i v).events = s.events := rfl
@[simp] theorem State.memWrite_reply (i : Nat) (v : Byte) : (s.memWrite i v).reply = s.reply := rfl
@[simp] theorem State.memWrite_context (i : Nat) (v : Byte) : (s.memWrite i v).context = s.context := rfl

/-! ### State.succeed -/

@[simp] theorem State.succeed_crc : (s.succeed).crc = s.crc := rfl
@[simp] theorem State.succeed_data : (s.succeed).data = s.data := rfl
@[simp] theorem State.succeed_result : (s.succeed).result = s.result := rfl
@[simp] theorem State.succeed_slaveId : (s.succeed).slaveId = s.slaveId := rfl
@[simp] theorem State.succeed_len : (s.succeed).len = s.len := rfl
@[simp] theorem State.succeed_status : (s.succeed).status = s.status.succeeded := rfl
@[simp] theorem State.succeed_fbuf : (s.succeed).fbuf = s.fbuf := rfl
@[simp] theorem State.succeed_params : (s.succeed).params = s.params := rfl
@[simp] theorem State.succeed_events : (s.succeed).events = s.events := rfl
@[simp] theorem State.succeed_reply : (s.succeed).reply = s.reply := rfl
@[simp] theorem State.succeed_context : (s.succeed).context = s.context := rfl

/-! ### State.raiseCmdError -/

@[simp] theorem State.raiseCmdError_crc (e : ErrCode) : (s.raiseCmdError e).crc = s.crc := rfl
@[simp] theorem State.raiseCmdError_data (e : ErrCode) : (s.raiseCmdError e).data = s.data := rfl
@[simp] theorem State.raiseCmdError_result (e : ErrCode) : (s.raiseCmdError e).result = s.result := rfl
@[simp] theorem State.raiseCmdError_slaveId (e : ErrCode) : (s.raiseCmdError e).slaveId = s.slaveId := rfl
@[simp] theorem State.raiseCmdError_len (e : ErrCode) : (s.raiseCmdError e).len = s.len := rfl
@[simp] theorem State.raiseCmdError_status (e : ErrCode) : (s.raiseCmdError e).status = s.status.failed e := rfl
@[simp] theorem State.raiseCmdError_fbuf (e : ErrCode) : (s.raiseCmdError e).fbuf = s.fbuf := rfl
@[simp] theorem State.raiseCmdError_params (e : ErrCode) : (s.raiseCmdError e).params = s.params := rfl
@[simp] theorem State.raiseCmdError_events (e : ErrCode) : (s.raiseCmdError e).events = s.events := rfl
@[simp] theorem State.raiseCmdError_reply (e : ErrCode) : (s.raiseCmdError e).reply = s.reply := rfl
@[simp] theorem State.raiseCmdError_context (e : ErrCode) : (s.raiseCmdError e).context = s.context := rfl

/-! ### State.writeCrc -/

@[simp] theorem State.writeCrc_crc (i : Nat) (c : Half) : (s.writeCrc i c).crc = s.crc := rfl
@[simp] theorem State.writeCrc_data (i : Nat) (c : Half) : (s.writeCrc i c).data = s.data := rfl
@[simp] theorem State.writeCrc_result (i : Nat) (c : Half) : (s.writeCrc i c).result = s.result := rfl
@[simp] theorem State.writeCrc_slaveId (i : Nat) (c : Half) : (s.writeCrc i c).slaveId = s.slaveId := rfl
@[simp] theorem State.writeCrc_len (i : Nat) (c : Half) : (s.writeCrc i c).len = s.len := rfl
@[simp] theorem State.writeCrc_status (i : Nat) (c : Half) : (s.writeCrc i c).status = s.status := rfl
@[simp] theorem State.writeCrc_fbuf (i : Nat) (c : Half) : (s.writeCrc i c).fbuf = (s.fbuf.write i (lowByte c)).write (i + 1) (highByte c) := rfl
@[simp] theorem State.writeCrc_params (i : Nat) (c : Half) : (s.writeCrc i c).params = s.params := rfl
@[simp] theorem State.writeCrc_events (i : Nat) (c : Half) : (s.writeCrc i c).events = s.events := rfl
@[simp] theorem State.writeCrc_reply (i : Nat) (c : Half) : (s.writeCrc i c).reply = s.reply := rfl
@[simp] theorem State.writeCrc_context (i : Nat) (c : Half) : (s.writeCrc i c).context = s.context := rfl

/-! ### State.writeBigEndian -/

@[simp] theorem State.writeBigEndian_crc (i : Nat) (v : Half) : (s.writeBigEndian i v).crc = s.crc := rfl
@[simp] theorem State.writeBigEndian_data (i : Nat) (v : Half) : (s.writeBigEndian i v).data = s.data := rfl
@[simp] theorem State.writeBigEndian_result (i : Nat) (v : Half) : (s.writeBigEndian i v).result = s.result := rfl
@[simp] theorem State.writeBigEndian_slaveId (i : Nat) (v : Half) : (s.writeBigEndian i v).slaveId = s.slaveId := rfl
@[simp] theorem State.writeBigEndian_len (i : Nat) (v : Half) : (s.writeBigEndian i v).len = s.len := rfl
@[simp] theorem State.writeBigEndian_status (i : Nat) (v : Half) : (s.writeBigEndian i v).status = s.status := rfl
@[simp] theorem State.writeBigEndian_fbuf (i : Nat) (v : Half) : (s.writeBigEndian i v).fbuf = (s.fbuf.write i (highByte v)).write (i + 1) (lowByte v) := rfl
@[simp] theorem State.writeBigEndian_params (i : Nat) (v : Half) : (s.writeBigEndian i v).params = s.params := rfl
@[simp] theorem State.writeBigEndian_events (i : Nat) (v : Half) : (s.writeBigEndian i v).events = s.events := rfl
@[simp] theorem State.writeBigEndian_reply (i : Nat) (v : Half) : (s.writeBigEndian i v).reply = s.reply := rfl
@[simp] theorem State.writeBigEndian_context (i : Nat) (v : Half) : (s.writeBigEndian i v).context = s.context := rfl

/-! ### State.resetBlock -/

@[simp] theorem State.resetBlock_crc : s.resetBlock.crc = State.reset.crc := rfl
@[simp] theorem State.resetBlock_data : s.resetBlock.data = State.reset.data := rfl
@[simp] theorem State.resetBlock_result : s.resetBlock.result = State.reset.result := rfl
@[simp] theorem State.resetBlock_slaveId : s.resetBlock.slaveId = State.reset.slaveId := rfl
@[simp] theorem State.resetBlock_len : s.resetBlock.len = State.reset.len := rfl
@[simp] theorem State.resetBlock_status : s.resetBlock.status = State.reset.status := rfl
@[simp] theorem State.resetBlock_fbuf : s.resetBlock.fbuf = State.reset.fbuf := rfl
@[simp] theorem State.resetBlock_params : s.resetBlock.params = s.params := rfl
@[simp] theorem State.resetBlock_events : s.resetBlock.events = s.events := rfl
@[simp] theorem State.resetBlock_reply : s.resetBlock.reply = s.reply := rfl
@[simp] theorem State.resetBlock_context : s.resetBlock.context = s.context := rfl

/-! ### STATUS -/

variable (t : Status)

@[simp] theorem Status.succeeded_chk : t.succeeded.chk = t.chk := rfl
@[simp] theorem Status.succeeded_cause : t.succeeded.cause = t.cause := rfl
@[simp] theorem Status.succeeded_err : t.succeeded.err = false := rfl
@[simp] theorem Status.succeeded_errcode : t.succeeded.errcode = .noError := rfl
@[simp] theorem Status.failed_chk (e : ErrCode) : (t.failed e).chk = t.chk := rfl
@[simp] theorem Status.failed_cause (e : ErrCode) : (t.failed e).cause = t.cause := rfl
@[simp] theorem Status.failed_err (e : ErrCode) : (t.failed e).err = true := rfl
@[simp] theorem Status.failed_errcode (e : ErrCode) : (t.failed e).errcode = e := rfl
@[simp] theorem Status.checked_chk (k : Chk) (c : Cause) : (t.checked k c).chk = k := rfl
@[simp] theorem Status.checked_cause (k : Chk) (c : Cause) : (t.checked k c).cause = c := rfl
@[simp] theorem Status.checked_err (k : Chk) (c : Cause) : (t.checked k c).err = t.err := rfl
@[simp] theorem Status.checked_errcode (k : Chk) (c : Cause) : (t.checked k c).errcode = t.errcode := rfl

end Sys2Proof.Machine
end

