-- ==== Sys2Proof/Laws/Ops.lean ====
section
/-! SUPPORT. The laws of the shared operations: FBUF reads and writes, ranges, the bound check, how a command ends. Each
says once what its operation can do; proofs cite these instead of unfolding it. -/

namespace Sys2Proof.Machine

/-! ## FBUF -/

@[simp] theorem Memory.read_nil (i : Nat) : Memory.read [] i = none := rfl

theorem Memory.read_write_same (m : Memory) (i : Nat) (v : Byte) : (m.write i v).read i = some v := by
  induction m with
  | nil => simp [Memory.write, Memory.read]
  | cons c m ih =>
    obtain ⟨j, b⟩ := c
    simp only [Memory.write]
    split
    · simp [Memory.read]
    · split
      · simp [Memory.read]
      · next hne => simpa [Memory.read, hne] using ih

theorem Memory.read_write_other (m : Memory) (i j : Nat) (v : Byte) (h : j ≠ i) :
    (m.write i v).read j = m.read j := by
  induction m with
  | nil => simp [Memory.write, Memory.read, h, unlistedByte]
  | cons c m ih =>
    obtain ⟨k, b⟩ := c
    simp only [Memory.write]
    split
    · simp [Memory.read, h]
    · split
      · next heq => subst heq; simp [Memory.read, h]
      · simp [Memory.read, ih]

/-- The byte read after a write: the written one at its index, the old one elsewhere. -/
@[simp] theorem Memory.read_write (m : Memory) (i j : Nat) (v : Byte) :
    (m.write i v).read j = if j = i then some v else m.read j := by
  split
  · next h => subst h; exact Memory.read_write_same m _ v
  · next h => exact Memory.read_write_other m i j v h

/-- A write adds no index but its own. -/
theorem Memory.mem_write {m : Memory} {i : Nat} {v : Byte} {c : Host.Cell} (h : c ∈ m.write i v) :
    c = (i, v) ∨ c ∈ m := by
  induction m with
  | nil => simpa [Memory.write] using h
  | cons d m ih =>
    obtain ⟨k, b⟩ := d
    simp only [Memory.write] at h
    split at h
    · simpa using h
    · split at h
      · rcases List.mem_cons.1 h with h | h
        · exact .inl h
        · exact .inr (List.mem_cons_of_mem _ h)
      · rcases List.mem_cons.1 h with h | h
        · exact .inr (by simp [h])
        · exact (ih h).imp_right (List.mem_cons_of_mem _)

/-- Every write keeps FBUF in canonical form. -/
theorem Memory.write_wf {m : Memory} (h : m.wf) (i : Nat) (v : Byte) : (m.write i v).wf := by
  induction m with
  | nil => simp [Memory.write, Memory.wf]
  | cons c m ih =>
    obtain ⟨j, b⟩ := c
    have ⟨hhead, htail⟩ := List.pairwise_cons.1 h
    simp only [Memory.write]
    split
    · next hlt =>
      refine List.pairwise_cons.2 ⟨fun d hd => ?_, h⟩
      rcases List.mem_cons.1 hd with rfl | hd
      · exact hlt
      · exact Nat.lt_trans hlt (hhead d hd)
    · split
      · next heq => subst heq; exact List.pairwise_cons.2 ⟨hhead, htail⟩
      · next hnlt hne =>
        refine List.pairwise_cons.2 ⟨fun d hd => ?_, ih htail⟩
        rcases Memory.mem_write hd with rfl | hd
        · show j < i; omega
        · exact hhead d hd

/-- Every index after a write is an old one or the written one, so an FBUF inside a bound stays inside it. -/
theorem Memory.write_inside {m : Memory} {n i : Nat} {v : Byte} (h : ∀ c ∈ m, c.1 < n) (hi : i < n) :
    ∀ c ∈ m.write i v, c.1 < n := by
  intro c hc
  rcases Memory.mem_write hc with rfl | hc
  · exact hi
  · exact h c hc

/-- FBUF after reset is in canonical form. -/
theorem Memory.reset_wf : State.reset.fbuf.wf := List.Pairwise.nil

/-! ## Reading bytes and ranges -/

theorem memRead_of_some {s : State} {i : Nat} {b : Byte} (h : s.fbuf.read i = some b) : memRead s i = .ok b := by
  simp [memRead, h]

theorem memRead_of_none {s : State} {i : Nat} (h : s.fbuf.read i = none) :
    memRead s i = .error (.unwrittenByte i) := by
  simp [memRead, h]

/-- A byte read answers the byte that is there, and its only failure is a byte that has no value. -/
theorem memRead_ok_iff {s : State} {i : Nat} {b : Byte} : memRead s i = .ok b ↔ s.fbuf.read i = some b := by
  cases hb : s.fbuf.read i <;> simp [memRead, hb]

theorem memRead_error_iff {s : State} {i : Nat} {f : Fault} :
    memRead s i = .error f ↔ s.fbuf.read i = none ∧ f = .unwrittenByte i := by
  cases hb : s.fbuf.read i <;> simp [memRead, hb, eq_comm]

/-- Byte reads depend on FBUF alone. -/
theorem memRead_congr {s t : State} {i : Nat} (h : s.fbuf.read i = t.fbuf.read i) : memRead s i = memRead t i := by
  simp [memRead, h]

@[simp] theorem readRange_zero (s : State) (i : Nat) : readRange s i 0 = .ok [] := rfl

/-- What a range read can answer: the bytes that are there, in order … -/
theorem readRange_ok_iff {s : State} {i n : Nat} {bs : List Byte} :
    readRange s i n = .ok bs ↔ bs.length = n ∧ ∀ k < bs.length, s.fbuf.read (i + k) = bs[k]? := by
  induction n generalizing i bs with
  | zero => cases bs <;> simp [readRange]
  | succ n ih =>
    simp only [readRange]
    rcases hb : s.fbuf.read i with _ | b
    · rw [memRead_of_none hb]
      constructor
      · intro h; simp [Except.bind] at h
      · rintro ⟨hl, h⟩
        have := h 0 (by omega)
        rw [Nat.add_zero, hb, List.getElem?_eq_getElem (by omega)] at this
        simp at this
    · rw [memRead_of_some hb]
      rcases hr : readRange s (i + 1) n with f | cs
      · have hno : ¬ ∃ cs, readRange s (i + 1) n = .ok cs := by simp [hr]
        constructor
        · intro h; simp [Except.bind, Except.map] at h
        · rintro ⟨hl, h⟩
          refine absurd ⟨bs.tail, ih.2 ⟨by simp [hl], fun k hk => ?_⟩⟩ hno
          have := h (k + 1) (by simp at hk; omega)
          simpa [Nat.add_assoc, Nat.add_comm 1 k] using this
      · have ⟨hl, hcs⟩ := ih.1 hr
        constructor
        · intro h
          have : bs = b :: cs := by simpa [Except.bind, Except.map, eq_comm] using h
          subst this
          refine ⟨by simp [hl], fun k hk => ?_⟩
          cases k with
          | zero => simpa using hb
          | succ k =>
            have := hcs k (by simpa using hk)
            simpa [Nat.add_assoc, Nat.add_comm 1 k] using this
        · rintro ⟨hlen, h⟩
          cases bs with
          | nil => simp at hlen
          | cons b' bs' =>
            have hb' : b' = b := by
              have := h 0 (by simp)
              simpa [hb, eq_comm] using this
            have : readRange s (i + 1) n = .ok bs' := ih.2 ⟨by simpa using hlen, fun k hk => by
              have := h (k + 1) (by simpa using hk)
              simpa [Nat.add_assoc, Nat.add_comm 1 k] using this⟩
            rw [hr] at this
            injection this with this
            simp [Except.bind, Except.map, hb', this]

/-- … or the fault of a byte of the range that has no value. -/
theorem readRange_error {s : State} {i n : Nat} {f : Fault} (h : readRange s i n = .error f) :
    ∃ k < n, s.fbuf.read (i + k) = none ∧ f = .unwrittenByte (i + k) := by
  induction n generalizing i with
  | zero => simp [readRange] at h
  | succ n ih =>
    simp only [readRange] at h
    rcases hb : memRead s i with g | b
    · rw [hb] at h
      obtain ⟨hn, rfl⟩ := memRead_error_iff.1 hb
      refine ⟨0, by omega, by simpa using hn, ?_⟩
      simpa [Except.bind, eq_comm] using h
    · rw [hb] at h
      rcases hr : readRange s (i + 1) n with g | cs
      · have hg : g = f := by simpa [Except.bind, Except.map, hr] using h
        subst hg
        obtain ⟨k, hk, hn, rfl⟩ := ih hr
        refine ⟨k + 1, by omega, ?_, ?_⟩
        · simpa [Nat.add_assoc, Nat.add_comm 1 k] using hn
        · congr 1; omega
      · simp [Except.bind, Except.map, hr] at h

/-- A range whose every byte has a value is read whole. -/
theorem readRange_total {s : State} {i n : Nat} (h : ∀ k < n, s.fbuf.read (i + k) ≠ none) :
    ∃ bs, readRange s i n = .ok bs := by
  rcases hr : readRange s i n with f | bs
  · obtain ⟨k, hk, hn, -⟩ := readRange_error hr
    exact absurd hn (h k hk)
  · exact ⟨bs, rfl⟩

/-- Range reads depend on the bytes of the range alone. -/
theorem readRange_congr {s t : State} {i n : Nat}
    (h : ∀ k < n, s.fbuf.read (i + k) = t.fbuf.read (i + k)) : readRange s i n = readRange t i n := by
  induction n generalizing i with
  | zero => rfl
  | succ n ih =>
    simp only [readRange]
    rw [memRead_congr (by simpa using h 0 (by omega)), ih fun k hk => by
      simpa [Nat.add_assoc, Nat.add_comm 1 k] using h (k + 1) (by omega)]

/-! ## How a command ends -/

theorem withinBound_le {limit : Nat} {s : State} {body : Result} (h : limit ≤ s.params.nBuf) :
    withinBound limit s body = body := if_pos h

theorem withinBound_gt {limit : Nat} {s : State} {body : Result} (h : s.params.nBuf < limit) :
    withinBound limit s body = .next (s.raiseCmdError .outOfBounds) := if_neg (by omega)

/-- What the bound check can answer. -/
theorem withinBound_cases (limit : Nat) (s : State) (body : Result) :
    (limit ≤ s.params.nBuf ∧ withinBound limit s body = body) ∨
    (s.params.nBuf < limit ∧ withinBound limit s body = .next (s.raiseCmdError .outOfBounds)) := by
  rcases Nat.lt_or_ge s.params.nBuf limit with h | h
  · exact .inr ⟨h, withinBound_gt h⟩
  · exact .inl ⟨h, withinBound_le h⟩

@[simp] theorem finish_ok (t : State) : finish (.ok t) = .next t.succeed := rfl

@[simp] theorem finish_error (f : Fault) : finish (.error f) = .fault f := rfl

/-- A command's effect ends in success or in a fault, never in a refusal. -/
theorem finish_next {r : Except Fault State} {t : State} (h : finish r = .next t) :
    ∃ u, r = .ok u ∧ t = u.succeed := by
  cases r with
  | ok u => exact ⟨u, rfl, by simpa [finish, eq_comm] using h⟩
  | error f => simp [finish] at h

/-! ## The CRC of a byte string -/

@[simp] theorem crcOfBytes_nil (c : Half) : crcOfBytes c [] = c := rfl

@[simp] theorem crcOfBytes_cons (c : Half) (b : Byte) (bs : List Byte) :
    crcOfBytes c (b :: bs) = crcOfBytes (crcStep c b) bs := rfl

theorem crcOfBytes_append (c : Half) (bs cs : List Byte) :
    crcOfBytes c (bs ++ cs) = crcOfBytes (crcOfBytes c bs) cs := by
  simp [crcOfBytes]

end Sys2Proof.Machine
end

