-- ==== Sys2Proof/Laws/Commands.lean ====
section
/-! SUPPORT. What a command can do, once for all nine: its bound, its effect, and every way it can end. -/

namespace Sys2Proof.Machine

/-! ## Effects that may fault -/

theorem except_map_ok {α β : Type} {r : Except Fault α} {f : α → β} {b : β} (h : r.map f = .ok b) :
    ∃ a, r = .ok a ∧ f a = b := by
  cases r with
  | error e => cases h
  | ok a => exact ⟨a, rfl, by simpa [Except.map] using h⟩

theorem except_map_error {α β : Type} {r : Except Fault α} {f : α → β} {e : Fault} (h : r.map f = .error e) :
    r = .error e := by
  cases r with
  | error g => simpa [Except.map] using h
  | ok a => cases h

theorem except_bind_ok {α β : Type} {r : Except Fault α} {f : α → Except Fault β} {b : β}
    (h : r.bind f = .ok b) : ∃ a, r = .ok a ∧ f a = .ok b := by
  cases r with
  | error e => cases h
  | ok a => exact ⟨a, rfl, h⟩

theorem except_bind_error {α β : Type} {r : Except Fault α} {f : α → Except Fault β} {e : Fault}
    (h : r.bind f = .error e) : r = .error e ∨ ∃ a, r = .ok a ∧ f a = .error e := by
  cases r with
  | error g => exact .inl (by simpa [Except.bind] using h)
  | ok a => exact .inr ⟨a, rfl, h⟩

/-! ## The operands read from FBUF -/

/-- The CRC of a range whose bytes are known. -/
theorem crc16From_of_bytes {s : State} {c : Half} {a : Nat} {bs : List Byte}
    (h : ∀ k < bs.length, s.fbuf.read (a + k) = bs[k]?) :
    crc16From s c a bs.length = .ok (crcOfBytes c bs) := by
  rw [crc16From, readRange_ok_iff.2 ⟨rfl, h⟩]; rfl

/-- One byte at the front of a range is one step. -/
theorem crc16From_succ (s : State) (c : Half) (i n : Nat) :
    crc16From s c i (n + 1) = (memRead s i).bind fun b => crc16From s (crcStep c b) (i + 1) n := by
  simp only [crc16From, readRange]
  cases memRead s i with
  | error f => rfl
  | ok b => cases readRange s (i + 1) n <;> rfl

theorem crc16From_congr {s t : State} {c : Half} {i n : Nat}
    (h : ∀ k < n, s.fbuf.read (i + k) = t.fbuf.read (i + k)) : crc16From s c i n = crc16From t c i n := by
  simp only [crc16From, readRange_congr h]

theorem u16At_of_bytes {s : State} {i : Nat} {hi lo : Byte} (h₀ : s.fbuf.read i = some hi)
    (h₁ : s.fbuf.read (i + 1) = some lo) : u16At s i = .ok (hi ++ lo) := by
  simp [u16At, memRead_of_some h₀, memRead_of_some h₁, Except.bind, Except.map]

/-! ## The rounds of the CRC -/

theorem crcRound_eq_xor (x : Half) : crcRound x = (x >>> 1) ^^^ (if x.getLsbD 0 then poly else 0) := by
  unfold crcRound; split <;> simp

/-- A round is linear over exclusive-or, and so are any number of them. -/
theorem crcRounds_linear (n : Nat) (x y : Half) : crcRounds n (x ^^^ y) = crcRounds n x ^^^ crcRounds n y := by
  have four : ∀ a b c d : Half, (a ^^^ b) ^^^ (c ^^^ d) = (a ^^^ c) ^^^ (b ^^^ d) := by intros; ac_rfl
  induction n generalizing x y with
  | zero => rfl
  | succ n ih =>
    have round : crcRound (x ^^^ y) = crcRound x ^^^ crcRound y := by
      simp only [crcRound_eq_xor, BitVec.ushiftRight_xor_distrib, BitVec.getLsbD_xor]
      rw [four]; congr 1
      cases x.getLsbD 0 <;> cases y.getLsbD 0 <;> simp
    simp only [crcRounds, round, ih]

/-- On a value whose low n bits are 0, n rounds only shift. -/
theorem crcRounds_of_low_zero (n : Nat) (y : Half) (h : ∀ i < n, y.getLsbD i = false) :
    crcRounds n y = y >>> n := by
  induction n generalizing y with
  | zero => simp [crcRounds]
  | succ n ih =>
    have h0 : y.getLsbD 0 = false := h 0 (by omega)
    rw [crcRounds, show crcRound y = y >>> 1 by rw [crcRound, h0]; rfl, ih]
    · rw [Nat.add_comm]
      apply BitVec.eq_of_toNat_eq
      simp [Nat.shiftRight_add]
    · intro i hi
      simpa [Nat.add_comm] using h (i + 1) (by omega)

/-! ## FRAME_CHECK's gate -/

theorem crcVerdict_pass (s : State) (c : Half) :
    crcVerdict s c (lowByte c) (highByte c) = (s.setCrc c).setCheck .pass .noCause := if_pos ⟨rfl, rfl⟩

theorem crcVerdict_mismatch {s : State} {c : Half} {lo hi : Byte} (h : ¬ (lo = lowByte c ∧ hi = highByte c)) :
    crcVerdict s c lo hi = (s.setCrc c).setCheck .invalid .crcMismatch := if_neg h

/-- The verdict writes CRC and a legal pair of CHK and CAUSE, whichever way it falls. -/
theorem crcVerdict_cases (s : State) (c : Half) (lo hi : Byte) :
    ∃ chk cause, crcVerdict s c lo hi = (s.setCrc c).setCheck chk cause ∧
      ((chk = .pass ∧ cause = .noCause) ∨ (chk = .invalid ∧ cause = .crcMismatch)) := by
  by_cases h : lo = lowByte c ∧ hi = highByte c
  · obtain ⟨rfl, rfl⟩ := h
    exact ⟨_, _, crcVerdict_pass s c, .inl ⟨rfl, rfl⟩⟩
  · exact ⟨_, _, crcVerdict_mismatch h, .inr ⟨rfl, rfl⟩⟩

theorem frameGate_short {a n : Nat} {s : State} (h : n < 8) :
    frameGate a n s = .ok (s.setCheck .invalid .tooShort) := if_pos h

theorem frameGate_wrongId {a n : Nat} {s : State} {id : Byte} (hn : 8 ≤ n) (hid : s.fbuf.read a = some id)
    (hne : id ≠ s.slaveId) : frameGate a n s = .ok (s.setCheck .notAddressed .wrongId) := by
  rw [frameGate, if_neg (show ¬ n < minFrame from Nat.not_lt.2 hn), memRead_of_some hid]
  exact if_pos hne

theorem frameGate_crc {a n : Nat} {s : State} {c : Half} {lo hi : Byte} (hn : 8 ≤ n)
    (hid : s.fbuf.read a = some s.slaveId) (hc : crc16 s a (n - 2) = .ok c)
    (hlo : s.fbuf.read (a + n - 2) = some lo) (hhi : s.fbuf.read (a + n - 1) = some hi) :
    frameGate a n s = .ok (crcVerdict s c lo hi) := by
  rw [frameGate, if_neg (show ¬ n < minFrame from Nat.not_lt.2 hn), memRead_of_some hid]
  show (if s.slaveId ≠ s.slaveId then _ else _) = _
  rw [if_neg (by simp), hc, memRead_of_some hlo, memRead_of_some hhi]
  rfl

/-- The three ways the gate ends. -/
theorem frameGate_ok {a n : Nat} {s u : State} (h : frameGate a n s = .ok u) :
    (n < 8 ∧ u = s.setCheck .invalid .tooShort) ∨
    (8 ≤ n ∧ ∃ id, s.fbuf.read a = some id ∧ id ≠ s.slaveId ∧ u = s.setCheck .notAddressed .wrongId) ∨
    (8 ≤ n ∧ s.fbuf.read a = some s.slaveId ∧ ∃ c lo hi, crc16 s a (n - 2) = .ok c ∧
      s.fbuf.read (a + n - 2) = some lo ∧ s.fbuf.read (a + n - 1) = some hi ∧ u = crcVerdict s c lo hi) := by
  unfold frameGate at h
  split at h
  · next hn => cases h; exact .inl ⟨hn, rfl⟩
  · next hn =>
    have hn : 8 ≤ n := Nat.not_lt.1 hn
    obtain ⟨id, hid, h⟩ := except_bind_ok h
    rw [memRead_ok_iff] at hid
    split at h
    · next hne => cases h; exact .inr (.inl ⟨hn, id, hid, hne, rfl⟩)
    · next heq =>
      obtain ⟨c, hc, h⟩ := except_bind_ok h
      obtain ⟨lo, hlo, h⟩ := except_bind_ok h
      obtain ⟨hi, hhi, h⟩ := except_map_ok h
      rw [memRead_ok_iff] at hlo hhi
      have heq : id = s.slaveId := by simpa using heq
      exact .inr (.inr ⟨hn, heq ▸ hid, c, lo, hi, hc, hlo, hhi, h.symm⟩)

/-! ## All commands at once -/

/-- Where the range a command touches ends (the table of R47); 0 where it touches none. -/
def boundOf : Instr → Nat
  | .crcInit => 0
  | .crcByte _ => 0
  | .crcBuf a n => a + n
  | .crcAcc a n => a + n
  | .crcAppend a n => a + n + 2
  | .frameCheck a n => a + n
  | .regToU16 a => a + 2
  | .u16ToReg a => a + 2
  | .f32WordSwap a => a + 4

/-- Step 4 of R67: the state a command leaves before success clears the error fields. -/
def effectOf : Instr → State → Except Fault State
  | .crcInit, s => .ok (s.setCrc seed)
  | .crcByte b, s => .ok (s.setCrc (crcStep s.crc (dataByte b)))
  | .crcBuf a n, s => (crc16 s a n).map fun c => s.setCrc c
  | .crcAcc a n, s => (crc16From s s.crc a n).map fun c => s.setCrc c
  | .crcAppend a n, s => (crc16 s a n).map fun c => ((s.writeCrc (a + n) c).setCrc c).setLen (n + 2)
  | .frameCheck a n, s => frameGate a n s
  | .regToU16 a, s => (u16At s a).map fun v => s.setResult (v.setWidth 32)
  | .u16ToReg a, s => .ok (s.writeBigEndian a s.data)
  | .f32WordSwap a, s => (f32At s a).map fun v => s.setResult v

theorem exec_eq_bound_effect (i : Instr) (s : State) :
    exec i s = withinBound (boundOf i) s (finish (effectOf i s)) := by
  cases i <;> rfl

/-- The two ways a command answers a next state. -/
theorem exec_next_cases {i : Instr} {s t : State} (h : exec i s = .next t) :
    (s.params.nBuf < boundOf i ∧ t = s.raiseCmdError .outOfBounds) ∨
    (boundOf i ≤ s.params.nBuf ∧ ∃ u, effectOf i s = .ok u ∧ t = u.succeed) := by
  rw [exec_eq_bound_effect] at h
  rcases withinBound_cases (boundOf i) s (finish (effectOf i s)) with ⟨hl, he⟩ | ⟨hl, he⟩
  · rw [he] at h; exact .inr ⟨hl, finish_next h⟩
  · rw [he] at h; cases h; exact .inl ⟨hl, rfl⟩

end Sys2Proof.Machine
end

