-- ==== Sys2Proof/Laws/Decode.lean ====
section
/-! SUPPORT. The bits and the value of a format-F0 word, and its fields read back. -/

namespace Sys2Proof

/-- Bit by bit, a format-F0 word is B, then A, then OP. -/
theorem formatF0_getLsbD (op : Byte) (a b : BitVec 12) (i : Nat) :
    (formatF0 op a b).getLsbD i =
      if i < 12 then b.getLsbD i else if i < 24 then a.getLsbD (i - 12) else op.getLsbD (i - 24) := by
  show (op ++ a ++ b).getLsbD i = _
  rw [BitVec.getLsbD_append, BitVec.getLsbD_append]
  by_cases h : i < 12
  · simp [h]
  · by_cases h' : i < 24
    · simp [h, h', (by omega : i - 12 < 12)]
    · have h12 : ¬ i - 12 < 12 := by omega
      simp only [h, h', h12, if_false, Nat.sub_sub]

/-- As a number, a format-F0 word is OP * 2^24 + A * 2^12 + B. -/
theorem formatF0_toNat (op : Byte) (a b : BitVec 12) :
    (formatF0 op a b).toNat = op.toNat * 2 ^ 24 + a.toNat * 2 ^ 12 + b.toNat := by
  show (op ++ a ++ b).toNat = _
  rw [BitVec.toNat_append, BitVec.toNat_append, ← Nat.shiftLeft_add_eq_or_of_lt b.isLt,
    ← Nat.shiftLeft_add_eq_or_of_lt a.isLt, Nat.shiftLeft_eq, Nat.shiftLeft_eq]
  omega

@[simp] theorem fieldOp_formatF0 (op : Byte) (a b : BitVec 12) : fieldOp (formatF0 op a b) = op := by
  apply BitVec.eq_of_toNat_eq
  have := op.isLt; have := a.isLt; have := b.isLt
  simp only [fieldOp, BitVec.extractLsb'_toNat, formatF0_toNat, Nat.shiftRight_eq_div_pow]
  omega

@[simp] theorem fieldA_formatF0 (op : Byte) (a b : BitVec 12) : fieldA (formatF0 op a b) = a.toNat := by
  have := op.isLt; have := a.isLt; have := b.isLt
  simp only [fieldA, BitVec.extractLsb'_toNat, formatF0_toNat, Nat.shiftRight_eq_div_pow]
  omega

@[simp] theorem fieldB_formatF0 (op : Byte) (a b : BitVec 12) : fieldB (formatF0 op a b) = b.toNat := by
  have := b.isLt
  simp only [fieldB, BitVec.extractLsb'_toNat, formatF0_toNat, Nat.shiftRight_eq_div_pow]
  omega

@[simp] theorem fieldByte_formatF0 (op : Byte) (a b : BitVec 12) :
    fieldByte (formatF0 op a b) = b.toNat % 256 := by
  simp only [fieldByte, BitVec.extractLsb'_toNat, formatF0_toNat, Nat.shiftRight_eq_div_pow]
  omega

@[simp] theorem fieldByteReserved_formatF0 (op : Byte) (a b : BitVec 12) :
    fieldByteReserved (formatF0 op a b) = b.toNat / 256 := by
  have := b.isLt
  simp only [fieldByteReserved, BitVec.extractLsb'_toNat, formatF0_toNat, Nat.shiftRight_eq_div_pow]
  omega

end Sys2Proof
end

