-- ==== Sys2Proof/Laws/PerInstr.lean ====
section
/-! SUPPORT. The family TableRow: the encoded word of every well-formed command matches its row of
spec/opcode_table.json, under that row's mask. One lemma per constructor. -/

namespace Sys2Proof.Laws.TableRow

/-- The "mask" of the command's row of spec/opcode_table.json. -/
def mask : Instr → Word
  | .crcInit => 0xFFFFFFFF
  | .crcByte _ => 0xFFFFFF00
  | .crcBuf _ _ => 0xFF000000
  | .crcAcc _ _ => 0xFF000000
  | .crcAppend _ _ => 0xFF000000
  | .frameCheck _ _ => 0xFF000000
  | .regToU16 _ => 0xFF000FFF
  | .u16ToReg _ => 0xFF000FFF
  | .f32WordSwap _ => 0xFF000FFF

/-- The "match" of the command's row of spec/opcode_table.json. -/
def pattern : Instr → Word
  | .crcInit => 0x01000000
  | .crcByte _ => 0x02000000
  | .crcBuf _ _ => 0x03000000
  | .crcAcc _ _ => 0x04000000
  | .crcAppend _ _ => 0x05000000
  | .frameCheck _ _ => 0x06000000
  | .regToU16 _ => 0x10000000
  | .u16ToReg _ => 0x11000000
  | .f32WordSwap _ => 0x12000000

/-- The encoded word, masked as its row says, is the row's match. -/
def Statement (i : Instr) : Prop := i.wf = true → encode i &&& mask i = pattern i

/-- Under the opcode mask only the opcode of a word is left. -/
theorem formatF0_opcode_mask (op : Byte) (a b : BitVec 12) :
    formatF0 op a b &&& 0xFF000000 = formatF0 op 0 0 := by
  apply BitVec.eq_of_getLsbD_eq
  intro i hi
  rw [BitVec.getLsbD_and, formatF0_getLsbD, formatF0_getLsbD]
  interval_cases i <;> simp

/-- Under the mask of OP and B, a word with B = 0 keeps OP only. -/
theorem formatF0_opcode_b_mask (op : Byte) (a : BitVec 12) :
    formatF0 op a 0 &&& 0xFF000FFF = formatF0 op 0 0 := by
  apply BitVec.eq_of_getLsbD_eq
  intro i hi
  rw [BitVec.getLsbD_and, formatF0_getLsbD, formatF0_getLsbD]
  interval_cases i <;> simp

theorem crcInit : Statement .crcInit := fun _ => by decide

theorem crcByte (b : Nat) : Statement (.crcByte b) := by
  intro h
  have hb : b ≤ 255 := by simpa [Instr.wf] using h
  show formatF0 0x02 0 (BitVec.ofNat 12 b) &&& 0xFFFFFF00 = 0x02000000
  apply BitVec.eq_of_getLsbD_eq
  intro i hi
  rw [BitVec.getLsbD_and, formatF0_getLsbD]
  have high : ∀ j, 8 ≤ j → (BitVec.ofNat 12 b).getLsbD j = false := fun j hj => by
    have : b < 2 ^ j := Nat.lt_of_lt_of_le (by omega : b < 2 ^ 8) (Nat.pow_le_pow_right (by decide) hj)
    simp [BitVec.getLsbD_ofNat, Nat.testBit_lt_two_pow this]
  rcases Nat.lt_or_ge i 8 with hlt | hge
  · interval_cases i <;> simp
  · rw [high i hge]
    interval_cases i <;> simp

theorem crcBuf (a n : Nat) : Statement (.crcBuf a n) := fun _ => by
  simpa [encode, mask, pattern] using (formatF0_opcode_mask 0x03 _ _).trans (by decide)

theorem crcAcc (a n : Nat) : Statement (.crcAcc a n) := fun _ => by
  simpa [encode, mask, pattern] using (formatF0_opcode_mask 0x04 _ _).trans (by decide)

theorem crcAppend (a n : Nat) : Statement (.crcAppend a n) := fun _ => by
  simpa [encode, mask, pattern] using (formatF0_opcode_mask 0x05 _ _).trans (by decide)

theorem frameCheck (a n : Nat) : Statement (.frameCheck a n) := fun _ => by
  simpa [encode, mask, pattern] using (formatF0_opcode_mask 0x06 _ _).trans (by decide)

theorem regToU16 (a : Nat) : Statement (.regToU16 a) := fun _ => by
  simpa [encode, mask, pattern] using (formatF0_opcode_b_mask 0x10 _).trans (by decide)

theorem u16ToReg (a : Nat) : Statement (.u16ToReg a) := fun _ => by
  simpa [encode, mask, pattern] using (formatF0_opcode_b_mask 0x11 _).trans (by decide)

theorem f32WordSwap (a : Nat) : Statement (.f32WordSwap a) := fun _ => by
  simpa [encode, mask, pattern] using (formatF0_opcode_b_mask 0x12 _).trans (by decide)

end Sys2Proof.Laws.TableRow
end

