-- ==== Sys2Proof/Laws/Step.lean ====
section
/-! SUPPORT. The laws of the host window and of the step: where an offset leads, what an access can do, what a step can
do. -/

namespace Sys2Proof.Machine

/-! ## The address map -/

@[simp] theorem regAt_offset (r : Reg) : regAt r.offset = some r := by cases r <;> rfl

theorem regAt_some {off : Nat} {r : Reg} (h : regAt off = some r) : off = r.offset := by
  unfold regAt at h
  split_ifs at h <;> cases h <;> assumption

/-- The offsets that name no register: beyond CONFIG, or not a multiple of 4. -/
theorem regAt_none_iff_offset (off : Nat) : regAt off = none ↔ ¬ (off < 0x24 ∧ off % 4 = 0) := by
  unfold regAt
  split_ifs <;> simp <;> omega

theorem route_offset (n : Nat) (r : Reg) : route n r.offset 32 = some (.register r) := by
  rw [route, regAt_offset]; rfl

theorem route_fbuf {n i : Nat} (h : i < n) : route n (0x1000 + i) 8 = some (.byte i) := by
  unfold route
  rw [(regAt_none_iff_offset (0x1000 + i)).2 (by omega)]
  simp [fbufOffset, h]

theorem route_register {n off width : Nat} {r : Reg} (h : route n off width = some (.register r)) :
    off = r.offset ∧ width = 32 := by
  unfold route at h
  split at h
  · next q hq =>
    split at h
    · next hw => cases h; exact ⟨regAt_some hq, hw⟩
    · cases h
  · split at h <;> cases h

theorem route_byte {n off width i : Nat} (h : route n off width = some (.byte i)) :
    i < n ∧ off = 0x1000 + i ∧ width = 8 := by
  unfold route at h
  split at h
  · split at h <;> cases h
  · split at h
    · next hc =>
      have hi : off - 0x1000 = i := by simpa [fbufOffset] using h
      have h₁ : 0x1000 ≤ off := hc.1
      have h₂ : off < 0x1000 + n := hc.2.1
      exact ⟨by omega, by omega, hc.2.2⟩
    · cases h

/-! ## Host accesses -/

theorem inWindow_of_offset (p : Params) {off : Nat} (h : off < 0x2000) : inWindow p (p.base + off) :=
  ⟨Nat.le_add_right _ _, Nat.add_lt_add_left h _⟩

theorem hostAccess_read (s : State) {off : Nat} (width : Nat) (h : off < 0x2000) :
    hostAccess (.read (s.params.base + off) width) s = hostRead off width s := by
  rw [hostAccess, if_pos (inWindow_of_offset _ h), Nat.add_sub_cancel_left]

theorem hostAccess_write (s : State) {off : Nat} (width : Nat) (v : Word) (h : off < 0x2000) :
    hostAccess (.write (s.params.base + off) width v) s = hostWrite off width v s := by
  rw [hostAccess, hostWriteAt, if_pos (inWindow_of_offset _ h), Nat.add_sub_cancel_left]

/-- A write of `f | mask` after a read of f writes that value. -/
theorem hostAccess_writeReadOr {s : State} {f : Word} (addr width : Nat) (mask : Word) (h : s.reply = .data f) :
    hostAccess (.writeReadOr addr width mask) s = hostWriteAt addr width (f ||| mask) s := by
  simp only [hostAccess, h]

/-- A write by bus address that answers a next state lies in the window. -/
theorem hostWriteAt_next {s t : State} {addr width : Nat} {v : Word} (h : hostWriteAt addr width v s = .next t) :
    ∃ off < 0x2000, addr = s.params.base + off ∧ hostWrite off width v s = .next t := by
  unfold hostWriteAt at h
  by_cases hw : inWindow s.params addr
  · rw [if_pos hw] at h
    have hw : s.params.base ≤ addr ∧ addr < s.params.base + 0x2000 := hw
    exact ⟨addr - s.params.base, by omega, by omega, h⟩
  · rw [if_neg hw] at h; cases h

/-- So does a write of `f | mask`, which follows a read of f. -/
theorem hostAccess_writeReadOr_next {s t : State} {addr width : Nat} {mask : Word}
    (h : hostAccess (.writeReadOr addr width mask) s = .next t) :
    ∃ f, s.reply = .data f ∧ hostWriteAt addr width (f ||| mask) s = .next t := by
  cases hr : s.reply with
  | data f => rw [hostAccess_writeReadOr addr width mask hr] at h; exact ⟨f, rfl, h⟩
  | idle => simp only [hostAccess, hr] at h; cases h
  | written => simp only [hostAccess, hr] at h; cases h

theorem Reg.offset_lt (r : Reg) : r.offset < 0x2000 := by cases r <;> decide

/-- A read of a register answers its value. -/
theorem hostAccess_readReg (r : Reg) (s : State) :
    hostAccess (.read (s.params.base + r.offset) 32) s = .next (s.setReply (.data (readReg r s))) := by
  rw [hostAccess_read s 32 r.offset_lt, hostRead, route_offset]

/-- A write of a register is the register's own write. -/
theorem hostAccess_writeReg (r : Reg) (v : Word) (s : State) :
    hostAccess (.write (s.params.base + r.offset) 32 v) s = writeReg r v (s.setReply .written) := by
  rw [hostAccess_write s 32 v r.offset_lt, hostWrite, route_offset]

/-- A read changes nothing but the reply. -/
theorem hostRead_next {s t : State} {off width : Nat} (h : hostRead off width s = .next t) :
    ∃ v, t = s.setReply (.data v) := by
  unfold hostRead at h
  split at h
  · cases h
  · cases h; exact ⟨_, rfl⟩
  · split at h
    · cases h; exact ⟨_, rfl⟩
    · cases h

/-- The two ways a write ends. -/
theorem hostWrite_next {s t : State} {off width : Nat} {v : Word} (h : hostWrite off width v s = .next t) :
    (∃ r : Reg, off = r.offset ∧ width = 32 ∧ writeReg r v (s.setReply .written) = .next t) ∨
    (∃ i, i < s.params.nBuf ∧ off = 0x1000 + i ∧ width = 8 ∧
      t = (s.memWrite i (v.setWidth 8)).setReply .written) := by
  unfold hostWrite at h
  split at h
  · cases h
  · next r hr => exact .inl ⟨r, (route_register hr).1, (route_register hr).2, h⟩
  · next i hi => cases h; exact .inr ⟨i, (route_byte hi).1, (route_byte hi).2.1, (route_byte hi).2.2, rfl⟩

theorem command_of_decode {w : Word} {i : Instr} (h : decode w = .ok i) (s : State) : command w s = exec i s := by
  rw [command, h]

theorem command_of_error {w : Word} {e : DecodeError} (h : decode w = .error e) (s : State) :
    command w s = .next (s.raiseCmdError (errCodeOf e)) := by
  rw [command, h]

/-- The two ways a CMD write ends. -/
theorem command_next {w : Word} {s t : State} (h : command w s = .next t) :
    (∃ e, decode w = .error e ∧ t = s.raiseCmdError (errCodeOf e)) ∨
    (∃ i, decode w = .ok i ∧ exec i s = .next t) := by
  unfold command at h
  split at h
  · next i hi => exact .inr ⟨i, hi, h⟩
  · next e he => cases h; exact .inl ⟨e, he, rfl⟩

/-! ## Steps -/

theorem step_nil {s : State} (h : s.events = []) : step s = .next s := by unfold step; rw [h]

theorem step_event {s : State} {e : Event} {rest : List Event} (h : s.events = e :: rest) :
    step s = perform e { s with events := rest } := by unfold step; rw [h]

theorem step_access {s : State} {a : HostAccess} {rest : List Event}
    (h : s.events = .access s.context a :: rest) : step s = hostAccess a { s with events := rest } := by
  rw [step_event h]; exact if_pos rfl

/-- Everything a step can do that answers a next state, event by event; an access lies in the window, and a
write carries its value or the value the last read returned, with a mask. -/
theorem step_next_cases {s t : State} (h : step s = .next t) :
    (s.events = [] ∧ t = s) ∨
    (∃ rest, s.events = .reset :: rest ∧ t = { s with events := rest }.resetBlock) ∨
    (∃ c rest, s.events = .handover c :: rest ∧ t = { s with events := rest, context := c, reply := .idle }) ∨
    (∃ off width rest, s.events = .access s.context (.read (s.params.base + off) width) :: rest ∧
      off < 0x2000 ∧ hostRead off width { s with events := rest } = .next t) ∨
    (∃ off width v rest, (s.events = .access s.context (.write (s.params.base + off) width v) :: rest ∨
        ∃ f mask, s.reply = .data f ∧ v = f ||| mask ∧
          s.events = .access s.context (.writeReadOr (s.params.base + off) width mask) :: rest) ∧
      off < 0x2000 ∧ hostWrite off width v { s with events := rest } = .next t) := by
  unfold step at h
  split at h
  · next he => cases h; exact .inl ⟨he, rfl⟩
  · next e rest he =>
    cases e with
    | reset => cases h; exact .inr (.inl ⟨rest, he, rfl⟩)
    | handover c => cases h; exact .inr (.inr (.inl ⟨c, rest, he, rfl⟩))
    | access c a =>
      change (if c = s.context then hostAccess a { s with events := rest } else .refused (.interleavedUse c)) =
        .next t at h
      by_cases hc : c = s.context
      · rw [if_pos hc] at h
        subst hc
        cases a with
        | read addr width =>
          change (if inWindow s.params addr then hostRead (addr - s.params.base) width { s with events := rest }
            else .refused (.outsideWindow addr)) = .next t at h
          by_cases hw : inWindow s.params addr
          · rw [if_pos hw] at h
            have hw : s.params.base ≤ addr ∧ addr < s.params.base + 0x2000 := hw
            refine .inr (.inr (.inr (.inl ⟨addr - s.params.base, width, rest, ?_, by omega, h⟩)))
            rw [he, Nat.add_sub_cancel' hw.1]
          · rw [if_neg hw] at h; cases h
        | write addr width v =>
          obtain ⟨off, hoff, rfl, hw⟩ := hostWriteAt_next h
          exact .inr (.inr (.inr (.inr ⟨off, width, v, rest, .inl he, hoff, hw⟩)))
        | writeReadOr addr width mask =>
          obtain ⟨f, hf, hv⟩ := hostAccess_writeReadOr_next h
          obtain ⟨off, hoff, rfl, hw⟩ := hostWriteAt_next hv
          exact .inr (.inr (.inr (.inr ⟨off, width, _, rest, .inr ⟨f, mask, hf, rfl, he⟩, hoff, hw⟩)))
      · rw [if_neg hc] at h; cases h

/-- A run goes step by step. -/
theorem run_succ {k : Nat} {s t : State} (h : step s = .next t) : core.run (k + 1) s = core.run k t := by
  simp only [Host.Core.run, show core.step s = .next t from h]

end Sys2Proof.Machine
end

