-- ==== Sys2Proof/Tests/Slice0.lean ====
section
/-! SUPPORT. The model's own tests. Every expected value is copied from spec/95_test_vectors.md, whose vector is named
beside it, or from the encoding tables of spec/30_encoding.md; none is the model's own answer. After them, for each
statement that has hypotheses, a state and operands that meet them all. -/

namespace Sys2Proof.Tests

open Sys2Proof Sys2Proof.Machine Sys2Proof.Claims

/-! ## Helpers -/

/-- The reset state with these bytes written from index `i` on. -/
def written (i : Nat) (bs : List Byte) : State := { State.reset with fbuf := (List.range' i bs.length).zip bs }

/-- The next state of an outcome. -/
def nextOf : Result → Option State
  | .next s => some s
  | .fault _ => none
  | .refused _ => none

/-- The fault of an outcome. -/
def faultOf : Result → Option Fault
  | .next _ => none
  | .fault f => some f
  | .refused _ => none

/-- The refusal of an outcome. -/
def refusalOf : Result → Option Refusal
  | .next _ => none
  | .fault _ => none
  | .refused r => some r

/-- A register after an outcome, as the host reads it. -/
def regAfter (r : Reg) (o : Result) : Option Word := (nextOf o).map (readReg r)

/-- A byte of FBUF after an outcome. -/
def byteAfter (i : Nat) (o : Result) : Option Byte := (nextOf o).bind fun s => s.fbuf.read i

/-- The request of vector V2 at index 0. -/
def requestV2 : State := written 0 [0x01, 0x03, 0x00, 0x00, 0x00, 0x01, 0x84, 0x0A]

/-- The request of vector V2, and the slave it is addressed to. -/
def slaveV2 : State := { requestV2 with slaveId := 0x01 }

/-- The body of vector V4 at index 0. -/
def bodyV4 : State := written 0 [0x01, 0x03, 0x02, 0x00, 0x01]

/-! ## Well-formedness refuses each operand that does not fit (R68) -/

theorem test_wf_byte_too_wide : (Instr.crcByte 256).wf = false := by decide
theorem test_wf_buf_index_too_wide : (Instr.crcBuf 4096 0).wf = false := by decide
theorem test_wf_buf_length_too_wide : (Instr.crcBuf 0 4096).wf = false := by decide
theorem test_wf_acc_index_too_wide : (Instr.crcAcc 4096 0).wf = false := by decide
theorem test_wf_acc_length_too_wide : (Instr.crcAcc 0 4096).wf = false := by decide
theorem test_wf_append_index_too_wide : (Instr.crcAppend 4096 0).wf = false := by decide
theorem test_wf_append_length_too_wide : (Instr.crcAppend 0 4096).wf = false := by decide
theorem test_wf_check_index_too_wide : (Instr.frameCheck 4096 0).wf = false := by decide
theorem test_wf_check_length_too_wide : (Instr.frameCheck 0 4096).wf = false := by decide
theorem test_wf_reg_index_too_wide : (Instr.regToU16 4096).wf = false := by decide
theorem test_wf_u16_index_too_wide : (Instr.u16ToReg 4096).wf = false := by decide
theorem test_wf_f32_index_too_wide : (Instr.f32WordSwap 4096).wf = false := by decide

/-! ## Decoding: words written out from format F0 (R61: OP [31:24], A [23:12], B [11:0]) and the map of R63 -/

/-- OP = 00000001, A = B = 0. -/
theorem test_decode_crc_init : decode 0b00000001_000000000000_000000000000 = .ok .crcInit := by decide
/-- OP = 00000010, A = 0, B[7:0] = 10100101. -/
theorem test_decode_crc_byte : decode 0b00000010_000000000000_000010100101 = .ok (.crcByte 0xA5) := by decide
/-- OP = 00000011, A = 100000000001, B = 010000000010. -/
theorem test_decode_crc_buf : decode 0b00000011_100000000001_010000000010 = .ok (.crcBuf 0x801 0x402) := by decide
/-- OP = 00000100. -/
theorem test_decode_crc_acc : decode 0b00000100_100000000001_010000000010 = .ok (.crcAcc 0x801 0x402) := by decide
/-- OP = 00000101. -/
theorem test_decode_crc_append : decode 0b00000101_100000000001_010000000010 = .ok (.crcAppend 0x801 0x402) := by
  decide
/-- OP = 00000110. -/
theorem test_decode_frame_check : decode 0b00000110_100000000001_010000000010 = .ok (.frameCheck 0x801 0x402) := by
  decide
/-- OP = 00010000, B = 0. -/
theorem test_decode_reg_to_u16 : decode 0b00010000_100000000001_000000000000 = .ok (.regToU16 0x801) := by decide
/-- OP = 00010001, B = 0. -/
theorem test_decode_u16_to_reg : decode 0b00010001_100000000001_000000000000 = .ok (.u16ToReg 0x801) := by decide
/-- OP = 00010010, B = 0. -/
theorem test_decode_f32_word_swap : decode 0b00010010_100000000001_000000000000 = .ok (.f32WordSwap 0x801) := by
  decide
/-- E1, E2, E3, E4, E5. -/
theorem test_decode_illegal :
    [0x00000000, 0x07000000, 0x0F000000, 0x13000000, 0xFFFFFFFF].all
      (fun w => decide (decode (BitVec.ofNat 32 w) = .error .illegalOpcode)) := by decide
/-- B7, B8, B9, B10, C8, F12. -/
theorem test_decode_reserved :
    [0x01001000, 0x02000100, 0x02001001, 0x01000001, 0x10000001, 0x12000004].all
      (fun w => decide (decode (BitVec.ofNat 32 w) = .error .reservedField)) := by decide
/-- The words of vectors B6, U7, P5, X15 and C12, from their assembler form. -/
theorem test_encode_words :
    encode (.crcByte 0x56) = 0x02000056 ∧ encode (.crcAcc 4 7) = 0x04004007 ∧ encode (.crcAppend 254 0) = 0x050FE000 ∧
    encode (.frameCheck 249 7) = 0x060F9007 ∧ encode (.u16ToReg 254) = 0x110FE000 := by decide
/-- The table gives a row its 32 bits; with fewer, the bits above are zero. -/
theorem test_decode_table_word :
    decodeTableWord 32 0x0300000B = some (.crcBuf 0 11) ∧ decodeTableWord 32 0x07000000 = none ∧
    decodeTableWord 8 0x0300000B = none := by decide

/-! ## The CRC family -/

/-- B1. -/
theorem test_crc_init : regAfter .crc (exec .crcInit { State.reset with crc := 0x1234 }) = some 0xFFFF := by decide
/-- B6. -/
theorem test_crc_byte : regAfter .crc (exec (.crcByte 0x56) { State.reset with crc := 0x1234 }) = some 0xE993 := by
  decide
/-- B3, through a CMD write and the step: the first command after reset. -/
theorem test_crc_byte_as_first_step :
    regAfter .crc (step (State.reset.withFetchWord 32 0x02000001)) = some 0x807E := by decide
/-- V3: CRC and CRC_WIRE of the body. -/
theorem test_crc_buf :
    let o := exec (.crcBuf 0 11) (written 0 [0x11, 0x10, 0x00, 0x01, 0x00, 0x02, 0x04, 0x00, 0x0A, 0x01, 0x02])
    regAfter .crc o = some 0xF0C6 ∧ regAfter .crcWire o = some 0xC6F0 := by decide
/-- U3: A = N_BUF is legal when B = 0; and U11: out of bounds, CRC unchanged. -/
theorem test_crc_buf_bounds :
    regAfter .crc (exec (.crcBuf 256 0) { State.reset with crc := 0x1234 }) = some 0xFFFF ∧
    regAfter .status (exec (.crcBuf 0 300) State.reset) = some 0x73 := by decide
/-- U10. -/
theorem test_crc_acc :
    regAfter .crc (exec (.crcAcc 6 2) { written 6 [0x84, 0x0A] with crc := 0x0A84 }) = some 0x0000 := by decide
/-- U8: an empty range leaves the accumulator. -/
theorem test_crc_acc_empty :
    regAfter .crc (exec (.crcAcc 11 0) { State.reset with crc := 0xF0C6 }) = some 0xF0C6 := by decide
/-- P1 and P8: the old bytes are overwritten. -/
theorem test_crc_append :
    let o := exec (.crcAppend 0 5) (written 0 [0x01, 0x03, 0x02, 0x00, 0x01, 0xAA, 0xBB])
    byteAfter 5 o = some 0x79 ∧ byteAfter 6 o = some 0x84 ∧ regAfter .crc o = some 0x8479 ∧
    regAfter .len o = some 7 := by decide
/-- P6: the last legal position; P7: one further. -/
theorem test_crc_append_bounds :
    let o := exec (.crcAppend 253 1) (written 253 [0x00])
    byteAfter 254 o = some 0xBF ∧ byteAfter 255 o = some 0x40 ∧ regAfter .len o = some 3 ∧
    (nextOf (exec (.crcAppend 255 0) State.reset)).map (·.status) =
      some { chk := .unchecked, cause := .noCause, err := true, errcode := .outOfBounds } := by decide
/-- X1, X6 and X9. -/
theorem test_frame_check :
    regAfter .status (exec (.frameCheck 0 8) slaveV2) = some 0x00 ∧
    regAfter .crc (exec (.frameCheck 0 8) slaveV2) = some 0x0A84 ∧
    regAfter .status (exec (.frameCheck 0 7) slaveV2) = some 0x06 ∧
    regAfter .status (exec (.frameCheck 0 8) { slaveV2 with slaveId := 0x02 }) = some 0x09 := by decide
/-- X12: big-endian placement of the CRC fails, and CRC holds the body's CRC. X17: an error keeps CHK. -/
theorem test_frame_check_mismatch :
    let swapped := { slaveV2 with fbuf := (slaveV2.fbuf.write 6 0x0A).write 7 0x84 }
    regAfter .status (exec (.frameCheck 0 8) swapped) = some 0x0E ∧
    regAfter .crc (exec (.frameCheck 0 8) swapped) = some 0x0A84 ∧
    regAfter .status (exec (.frameCheck 0 300) { slaveV2 with status :=
      { chk := .pass, cause := .noCause, err := false, errcode := .noError } }) = some 0x70 := by decide

/-! ## The codec -/

/-- C2 and C4: no sign extension; an odd index is legal. -/
theorem test_reg_to_u16 :
    regAfter .result (exec (.regToU16 2) (written 0 [0x12, 0x34, 0xFF, 0xFF])) = some 0x0000FFFF ∧
    regAfter .result (exec (.regToU16 1) (written 0 [0x12, 0x34, 0xFF, 0xFF])) = some 0x000034FF := by decide
/-- C9: RESERVED_FIELD wins over OUT_OF_BOUNDS; C7. -/
theorem test_reg_to_u16_errors :
    regAfter .status (command 0x1012C001 State.reset) = some 0x53 ∧
    regAfter .status (command 0x100FF000 State.reset) = some 0x73 := by decide
/-- C10: the high byte at the lower index. -/
theorem test_u16_to_reg :
    let o := exec (.u16ToReg 4) { State.reset with data := 0xABCD }
    byteAfter 4 o = some 0xAB ∧ byteAfter 5 o = some 0xCD ∧ regAfter .data o = some 0xABCD := by decide
/-- C12: the last legal index. -/
theorem test_u16_to_reg_last :
    let o := exec (.u16ToReg 254) { written 252 [0x77, 0x77, 0x77, 0x77] with data := 0x1234 }
    byteAfter 253 o = some 0x77 ∧ byteAfter 254 o = some 0x12 ∧ byteAfter 255 o = some 0x34 := by decide
/-- F3, and F1 under HIGH_WORD_FIRST. -/
theorem test_f32_word_swap :
    regAfter .result (exec (.f32WordSwap 0) (written 0 [0x12, 0x34, 0x56, 0x78])) = some 0x56781234 ∧
    regAfter .result (exec (.f32WordSwap 0) { written 0 [0x00, 0x00, 0x41, 0x20] with
      params := { Params.default with wordOrder := .highWordFirst } }) = some 0x00004120 := by decide
/-- F9: the last legal index; F10: one further. -/
theorem test_f32_word_swap_last :
    regAfter .result (exec (.f32WordSwap 252) (written 252 [0x11, 0x22, 0x33, 0x44])) = some 0x33441122 ∧
    regAfter .status (exec (.f32WordSwap 253) State.reset) = some 0x73 := by decide

/-! ## Host accesses, reset, and the command errors -/

/-- H2, H5. -/
theorem test_host_registers :
    (nextOf (hostAccess (.read 0x020 32) State.reset)).map (·.reply) = some (.data 0x00000100) ∧
    regAfter .crc (hostAccess (.write 0x008 32 0xDEADBEEF) State.reset) = some 0x0000BEEF ∧
    regAfter .crcWire (hostAccess (.write 0x008 32 0xDEADBEEF) State.reset) = some 0x0000EFBE := by decide
/-- H3, H4, H6. -/
theorem test_host_writes :
    regAfter .status (hostAccess (.write 0x004 32 0xFFFFFFFF) State.reset) = some 0x00000003 ∧
    regAfter .slaveId (hostAccess (.write 0x010 32 0x00001234) State.reset) = some 0x00000034 ∧
    regAfter .result (hostAccess (.write 0x018 32 1) State.reset) = some 0 := by decide
/-- H7, H8, H9, H10, H12. -/
theorem test_host_bus_errors :
    faultOf (hostAccess (.read 0x004 8) State.reset) = some (.busError 0x004 8) ∧
    faultOf (hostAccess (.read 0x006 32) State.reset) = some (.busError 0x006 32) ∧
    faultOf (hostAccess (.read 0x024 32) State.reset) = some (.busError 0x024 32) ∧
    faultOf (hostAccess (.read 0x1000 32) State.reset) = some (.busError 0x1000 32) ∧
    faultOf (hostAccess (.write 0x1100 8 0) State.reset) = some (.busError 0x1100 8) := by decide
/-- H11, H13. -/
theorem test_host_fbuf :
    byteAfter 255 (hostAccess (.write 0x10FF 8 0x5A) State.reset) = some 0x5A ∧
    (nextOf (hostAccess (.read 0x10FF 8) (written 255 [0x5A]))).map (·.reply) = some (.data 0x5A) ∧
    faultOf (hostAccess (.read 0x1000 8) State.reset) = some (.unwrittenByte 0) := by decide
/-- Z1, on a state in which every register differs from its reset value. -/
theorem test_reset :
    nextOf (step { slaveV2 with
      crc := 0x0A84, data := 0x0001, result := 0x00000001, len := 7, events := [.reset],
      status := { chk := .invalid, cause := .crcMismatch, err := true, errcode := .outOfBounds } }) =
    some State.reset := by decide
/-- E1, E7, E9. -/
theorem test_command_errors :
    regAfter .status (command 0x00000000 State.reset) = some 0x33 ∧
    regAfter .status (command 0x01000001 State.reset) = some 0x53 ∧
    regAfter .status (command 0x03001100 State.reset) = some 0x73 := by decide
/-- R54: an access of a context that does not hold the block is refused. R40: so is one outside the window. -/
theorem test_refusals :
    refusalOf (step { State.reset with events := [.access 1 (.read 0x020 32)] }) = some (.interleavedUse 1) ∧
    refusalOf (step { State.reset with events := [.access 0 (.read 0x2000 32)] }) = some (.outsideWindow 0x2000) := by
  decide
/-- R69 and L3-4: the four accesses of EXCFRAME 0x02, the last of them the word 0x05000003. -/
theorem test_exc_frame_expands :
    assemble 0 (Pseudo.excFrame 0x02).expand =
      some [.read 0x1001 8, .writeReadOr 0x1001 8 0x80, .write 0x1002 8 0x02, .write 0x000 32 0x05000003] := by decide
/-- L3-4: after `R8 FBUF[1] -> 0x03`, the host writes 0x83. -/
theorem test_write_of_read_value :
    byteAfter 1 (hostAccess (.writeReadOr 0x1001 8 0x80) { requestV2 with reply := .data 0x03 }) = some 0x83 := by decide
/-- R69: the expansion of CHECK, with the words of L3-1. -/
theorem test_check_expands :
    assemble 0 (Pseudo.check 8).expand = some [.write 0x000 32 0x06000008, .read 0x004 32] := by decide

/-! ## Witnesses: for every statement with hypotheses, a state and operands that meet them -/

theorem witness_DecodeOfEncodeIsTheCommand :
    (Instr.crcBuf 4095 4095).wf = true ∧ (Instr.crcByte 255).wf = true := by decide

theorem witness_EncodeOfDecodeIsTheWord : decode 0x06FFFFFF = .ok (.frameCheck 4095 4095) := by decide

theorem witness_IllegalOpcodesRaiseAndDoNothingElse :
    IllegalOp (op 0x00FFFFFF) ∧ IllegalOp (op 0x07000000) ∧ IllegalOp (op 0x0F000000) ∧ IllegalOp (op 0x13000000) ∧
    IllegalOp (op 0xFFFFFFFF) ∧ ¬ IllegalOp (op 0x06000000) ∧ ¬ IllegalOp (op 0x10000000) ∧
    ¬ IllegalOp (op 0x12000000) := by decide

theorem witness_ReservedFieldsRaiseAndDoNothingElse :
    [0x01001000, 0x01000001, 0x02001000, 0x02000100, 0x10000001, 0x11000800, 0x12000FFF].all
      (fun w => decide (ReservedSet (BitVec.ofNat 32 w))) ∧ ¬ ReservedSet 0x020000FF := by decide

theorem witness_CommandRunsItsStepsInOrder :
    IllegalOp (op 0x07FFFFFF) ∧
    (¬ IllegalOp (op 0x10FFF001) ∧ ReservedSet 0x10FFF001) ∧
    (¬ IllegalOp (op 0x03001100) ∧ ¬ ReservedSet 0x03001100 ∧ ¬ InBound 0x03001100 State.reset.params.nBuf) ∧
    (¬ IllegalOp (op 0x03100000) ∧ ¬ ReservedSet 0x03100000 ∧ InBound 0x03100000 State.reset.params.nBuf ∧
      ∃ t, exec (.crcBuf 256 0) State.reset = .next t) := by
  refine ⟨by decide, by decide, by decide, by decide, by decide, by decide, _, rfl⟩

theorem witness_EachErrorCodeComesFromItsCommandsOnly :
    (∃ t, command 0x00000000 State.reset = .next t ∧ t.status.errcode = .illegalOpcode) ∧
    (∃ t, command 0x02001001 State.reset = .next t ∧ t.status.errcode = .reservedField) ∧
    (∃ t, command 0x120FD000 State.reset = .next t ∧ t.status.errcode = .outOfBounds ∧ t.status.err = true) ∧
    (∃ t, command 0x01000000 State.reset = .next t ∧ t.status.errcode = .noError) :=
  ⟨⟨_, rfl, rfl⟩, ⟨_, rfl, rfl⟩, ⟨_, rfl, rfl, rfl⟩, ⟨_, rfl, rfl⟩⟩

theorem witness_CommandErrorsArePreciseAndNotSticky :
    (∃ t, command 0x03001100 State.reset = .next t) ∧ (∃ t, command 0x11000000 State.reset = .next t) :=
  ⟨⟨_, rfl⟩, ⟨_, rfl⟩⟩

theorem witness_OnlyTheFirstFailingCheckIsReported :
    IllegalOp 0x07 ∧ IllegalOp 0xFF ∧ ((0xFFF : Nat) < 2 ^ 12 ∧ (0x100 : Nat) / 2 ^ 8 ≠ 0) ∧
    State.reset.params.nBuf < 250 + 7 ∧ 249 + 7 ≤ State.reset.params.nBuf ∧
    (0 + 8 ≤ slaveV2.params.nBuf ∧ slaveV2.fbuf.read 0 = some 0x01 ∧ (0x01 : Byte) ≠ 0x02) ∧
    (∃ t, exec (.frameCheck 0 8) { slaveV2 with fbuf := slaveV2.fbuf.write 5 0x02 } = .next t ∧
      t.status.cause = .crcMismatch ∧ t.status.err = false) := by
  exact ⟨by decide, by decide, by decide, by decide, by decide, by decide, _, rfl, by decide, by decide⟩

theorem witness_StepRunsTheDecodedCommand :
    (∃ s : State, s.events = .access s.context (.write s.params.base 32 0x01000000) :: [] ∧
      decode 0x01000000 = .ok .crcInit) ∧
    decode 0x13000000 = .error .illegalOpcode ∧ decode 0x11000001 = .error .reservedField ∧
    ((0x020000FF < 2 ^ 32) ∧ decodeTableWord 32 0x020000FF = some (.crcByte 0xFF)) :=
  ⟨⟨State.reset.withFetchWord 32 0x01000000, rfl, by decide⟩, by decide, by decide, by decide, by decide⟩

theorem witness_EventsThatReachNoRegister :
    State.reset.events = [] ∧
    (∃ s : State, s.events = [.access 1 (.read 0 32)] ∧ 1 ≠ s.context) ∧
    (∃ s : State, s.events = [.handover 1]) ∧
    (∃ s : State, 0x1FFF < s.params.base ∧ s.params.base + 0x2000 ≤ 0x4000) :=
  ⟨rfl, ⟨{ State.reset with events := [.access 1 (.read 0 32)] }, rfl, by decide⟩,
    ⟨{ State.reset with events := [.handover 1] }, rfl⟩,
    ⟨{ State.reset with params := { Params.default with base := 0x2000 } }, by decide⟩⟩

theorem witness_CrcComposes :
    0 + 8 ≤ requestV2.params.nBuf ∧ 256 + 0 ≤ requestV2.params.nBuf ∧
    requestV2.Holds 0 [0x01, 0x03, 0x00, 0x00, 0x00, 0x01, 0x84, 0x0A] := by decide

theorem witness_TheResidueOfAnAppendedFrameIsZero :
    (0 + 5 + 2 ≤ bodyV4.params.nBuf ∧ ∃ t, exec (.crcAppend 0 5) bodyV4 = .next t) ∧
    (254 + 0 + 2 ≤ State.reset.params.nBuf ∧ ∃ t, exec (.crcAppend 254 0) State.reset = .next t) :=
  ⟨⟨by decide, _, rfl⟩, ⟨by decide, _, rfl⟩⟩

theorem witness_FrameCheckPassesExactlyOnResidueZero :
    0 + 8 ≤ slaveV2.params.nBuf ∧ slaveV2.Readable 0 8 ∧ slaveV2.fbuf.read 0 = some slaveV2.slaveId := by decide

theorem witness_AppendedFramesPassTheCheck :
    0 + 6 + 2 ≤ slaveV2.params.nBuf ∧ slaveV2.fbuf.read 0 = some slaveV2.slaveId ∧
    ∃ t, exec (.crcAppend 0 6) slaveV2 = .next t := ⟨by decide, by decide, _, rfl⟩

theorem witness_CrcInitSetsTheSeed : op 0x01001000 = 0x01 ∧ opA 0x01001000 ≠ 0 ∧ opB 0x01000001 ≠ 0 := by decide

theorem witness_CrcByteFeedsOneByte :
    op 0x02001001 = 0x02 ∧ opA 0x02001001 ≠ 0 ∧ opB 0x02000100 / 2 ^ 8 ≠ 0 := by decide

theorem witness_CrcBufComputesTheCrcOfTheRange :
    0 + 8 ≤ requestV2.params.nBuf ∧ requestV2.Holds 0 [0x01, 0x03, 0x00, 0x00, 0x00, 0x01] ∧
    requestV2.params.nBuf < 1 + 256 ∧ 256 ≤ requestV2.params.nBuf ∧
    (0 + 9 ≤ requestV2.params.nBuf ∧ ¬ requestV2.Readable 0 9) := by decide

theorem witness_CrcAccContinuesTheAccumulator :
    (6 + 2 ≤ requestV2.params.nBuf ∧ requestV2.Holds 6 [0x84, 0x0A]) ∧ requestV2.params.nBuf < 0 + 257 ∧
    256 ≤ requestV2.params.nBuf ∧ 0 + 4 + 4 ≤ requestV2.params.nBuf ∧
    ({ requestV2 with crc := 0x0A84 } : State).crc = 0x0A84 := by decide

theorem witness_CrcAppendWritesTheCrcLowByteFirst :
    0 + 5 + 2 ≤ bodyV4.params.nBuf ∧ bodyV4.Holds 0 [0x01, 0x03, 0x02, 0x00, 0x01] ∧
    bodyV4.params.nBuf < 255 + 0 + 2 ∧ 254 + 2 ≤ bodyV4.params.nBuf := by decide

theorem witness_FrameCheckRunsTheValidationGate :
    (256 + 0 ≤ slaveV2.params.nBuf) ∧
    (slaveV2.fbuf.read 0 = some 0x01 ∧ (0x01 : Byte) ≠ ({ slaveV2 with slaveId := 0x02 } : State).slaveId) ∧
    (slaveV2.Holds 0 ([0x01, 0x03, 0x00, 0x00, 0x00, 0x01] ++ [0x84, 0x0A]) ∧
      [0x01, 0x03, 0x00, 0x00, 0x00, 0x01].head? = some slaveV2.slaveId ∧
      (0x84 : Byte) = lo8 (crcSeeded [0x01, 0x03, 0x00, 0x00, 0x00, 0x01]) ∧
      (0x0A : Byte) = hi8 (crcSeeded [0x01, 0x03, 0x00, 0x00, 0x00, 0x01])) ∧
    slaveV2.params.nBuf < 0 + 257 ∧ 8 ≤ slaveV2.params.nBuf ∧ slaveV2.slaveId = 0x01 := by decide

/-- X12: the trailing bytes swapped, so that they are not the CRC. -/
theorem witness_FrameCheckRunsTheValidationGate_mismatch :
    (written 0 [0x01, 0x03, 0x00, 0x00, 0x00, 0x01, 0x0A, 0x84]).Holds 0
      ([0x01, 0x03, 0x00, 0x00, 0x00, 0x01] ++ [0x0A, 0x84]) ∧
    ¬ ((0x0A : Byte) = lo8 (crcSeeded [0x01, 0x03, 0x00, 0x00, 0x00, 0x01]) ∧
      (0x84 : Byte) = hi8 (crcSeeded [0x01, 0x03, 0x00, 0x00, 0x00, 0x01])) := by decide

theorem witness_U16AtIsBigEndian :
    254 + 2 ≤ (written 254 [0x12, 0x34]).params.nBuf ∧ (written 254 [0x12, 0x34]).Holds 254 [0x12, 0x34] := by decide

theorem witness_RegToU16ReadsOneBigEndianRegister :
    254 + 2 ≤ (written 254 [0xAB, 0xCD]).params.nBuf ∧ (written 254 [0xAB, 0xCD]).Holds 254 [0xAB, 0xCD] ∧
    (op 0x10000001 = 0x10 ∧ opB 0x10000001 ≠ 0) ∧ State.reset.params.nBuf < 255 + 2 := by decide

theorem witness_U16ToRegWritesOneBigEndianRegister :
    254 + 2 ≤ State.reset.params.nBuf ∧ (op 0x11000800 = 0x11 ∧ opB 0x11000800 ≠ 0) ∧
    State.reset.params.nBuf < 255 + 2 := by decide

theorem witness_F32WordSwapJoinsTwoRegisters :
    (252 + 4 ≤ (written 252 [0x11, 0x22, 0x33, 0x44]).params.nBuf ∧
      (written 252 [0x11, 0x22, 0x33, 0x44]).Holds 252 [0x11, 0x22, 0x33, 0x44] ∧
      (written 252 [0x11, 0x22, 0x33, 0x44]).params.wordOrder = .lowWordFirst) ∧
    (({ written 252 [0x11, 0x22, 0x33, 0x44] with
        params := { Params.default with wordOrder := .highWordFirst } } : State).params.wordOrder = .highWordFirst) ∧
    (op 0x12000004 = 0x12 ∧ opB 0x12000004 ≠ 0) ∧ State.reset.params.nBuf < 253 + 4 := by decide

theorem witness_CodecRoundTrips :
    (∃ t, exec (.u16ToReg 254) State.reset = .next t) ∧
    (∃ t, exec (.regToU16 0) requestV2 = .next t) ∧
    (∃ t₀ t₁, exec (.regToU16 4) requestV2 = .next t₀ ∧ exec (.regToU16 (4 + 2)) requestV2 = .next t₁) ∧
    254 + 2 ≤ State.reset.params.nBuf ∧ 4 + 4 ≤ requestV2.params.nBuf ∧
    requestV2.params.wordOrder = .lowWordFirst :=
  ⟨⟨_, rfl⟩, ⟨_, rfl⟩, ⟨_, _, rfl, rfl⟩, by decide, by decide, rfl⟩

theorem witness_CommandsThatStoreNothingKeepTheRest :
    (∃ t, exec (.crcByte 255) State.reset = .next t) ∧ (∃ t, exec .crcInit State.reset = .next t) ∧
    (∃ t, exec (.crcBuf 0 6) requestV2 = .next t) ∧ (∃ t, exec (.crcAcc 0 6) requestV2 = .next t) ∧
    (∃ t, exec (.frameCheck 0 8) slaveV2 = .next t) ∧ (∃ t, exec (.regToU16 6) requestV2 = .next t) ∧
    (∃ t, exec (.f32WordSwap 4) requestV2 = .next t) :=
  ⟨⟨_, rfl⟩, ⟨_, rfl⟩, ⟨_, rfl⟩, ⟨_, rfl⟩, ⟨_, rfl⟩, ⟨_, rfl⟩, ⟨_, rfl⟩⟩

theorem witness_CommandsThatStoreKeepTheRest :
    (∃ t, exec (.crcAppend 0 5) bodyV4 = .next t) ∧ (∃ t, exec (.u16ToReg 254) State.reset = .next t) :=
  ⟨⟨_, rfl⟩, ⟨_, rfl⟩⟩

/-- States that differ everywhere but in what FRAME_CHECK reads: with the right id, with a wrong id, and too short. -/
theorem witness_CommandsDependOnlyOnWhatTheyRead :
    SameReads (.frameCheck 0 8) slaveV2 { slaveV2 with
      crc := 0x1234, data := 0x5678, result := 1, len := 9, fbuf := slaveV2.fbuf.write 8 0x55 } ∧
    SameReads (.frameCheck 0 8) requestV2 { requestV2 with fbuf := [(0, 0x01)] } ∧
    SameReads (.frameCheck 0 7) slaveV2 { slaveV2 with slaveId := 0x02, fbuf := [] } :=
  ⟨⟨rfl, fun _ => ⟨rfl, rfl, fun _ => by decide⟩⟩, ⟨rfl, fun _ => ⟨rfl, rfl, fun h => by cases h⟩⟩,
    ⟨rfl, fun h => absurd h (by decide)⟩⟩

theorem witness_CommandsCompleteOnReadableRanges :
    slaveV2.Readable (readRangeOf (.frameCheck 0 8)).1 (readRangeOf (.frameCheck 0 8)).2 ∧
    requestV2.Readable (readRangeOf (.f32WordSwap 4)).1 (readRangeOf (.f32WordSwap 4)).2 ∧
    State.reset.Readable (readRangeOf (.u16ToReg 0)).1 (readRangeOf (.u16ToReg 0)).2 := by decide

theorem witness_CommandsStopOnlyAtUnwrittenBytes :
    exec (.regToU16 7) requestV2 = .fault (.unwrittenByte 8) := rfl

/-- An offset of each kind: the first and the last unmapped one, and the first beyond FBUF. -/
theorem witness_BusErrorsAreExactlyTheInadmissibleAccesses :
    (0x024 < 0x2000 ∧ 0x0FFF < 0x2000) ∧ 0x1000 + State.reset.params.nBuf ≤ 0x1100 ∧ (0x020 < 0x024 ∧ 0x023 % 4 ≠ 0) := by
  decide

theorem witness_HostReadsOfEveryRegister : State.reset.params.Legal := by decide

theorem witness_CrcWireIsTheSwappedCrc :
    (0 + 5 + 2 ≤ bodyV4.params.nBuf ∧ ∃ t, exec (.crcAppend 0 5) bodyV4 = .next t) ∧
    ({ State.reset with crc := 0x0A84 } : State).crc = 0x0A84 := ⟨⟨by decide, _, rfl⟩, rfl⟩

/-- At both ends of N_BUF's range. -/
theorem witness_ConfigIsAConstant :
    ({ State.reset with params := { Params.default with nBuf := 8 } } : State).params.Legal ∧
    ({ State.reset with params := { Params.default with nBuf := 4096 } } : State).params.Legal ∧
    ∃ t, step { State.reset with events := [.reset] } = .next t := ⟨by decide, by decide, _, rfl⟩

theorem witness_FbufIndexAndOffsetNameOneByte :
    (written 255 [0x5A]).params.Legal ∧ 255 < (written 255 [0x5A]).params.nBuf ∧
    (written 255 [0x5A]).fbuf.read 255 = some 0x5A ∧ (written 255 [0x5A]).fbuf.read 0 = none := by decide

theorem witness_HostReadsHaveNoSideEffect :
    (∃ t, hostAccess (.read 0x018 32) State.reset = .next t) ∧
    (∃ t, hostAccess (.read 0x1007 8) requestV2 = .next t) := ⟨⟨_, rfl⟩, ⟨_, rfl⟩⟩

/-- A REG_TO_U16 and a CRC_APPEND step that change RESULT and LEN. -/
theorem witness_ResultAndLenChangeOnlyByTheirWriters :
    (∃ t, step (requestV2.withFetchWord 32 0x10000000) = .next t ∧ t.result ≠ requestV2.result) ∧
    (∃ t, step (bodyV4.withFetchWord 32 0x05000005) = .next t ∧ t.len ≠ bodyV4.len) :=
  ⟨⟨_, rfl, by decide⟩, ⟨_, rfl, by decide⟩⟩

theorem witness_DataAndSlaveIdChangeOnlyByTheHost :
    (∃ t, step { State.reset with events := [.access 0 (.write 0x014 32 0xABCD)] } = .next t ∧ t.data ≠ 0) ∧
    (∃ t, step { State.reset with events := [.access 0 (.write 0x010 32 0x11)] } = .next t ∧ t.slaveId ≠ 0) :=
  ⟨⟨_, rfl, by decide⟩, ⟨_, rfl, by decide⟩⟩

theorem witness_CrcChangesOnlyByItsWriters :
    ∃ t, step (State.reset.withFetchWord 32 0x02000001) = .next t ∧ t.crc ≠ State.reset.crc := ⟨_, rfl, by decide⟩

theorem witness_StatusFieldsChangeOnlyByTheirWriters :
    (∃ t, step (State.reset.withFetchWord 32 0x06000007) = .next t ∧ t.status.chk ≠ State.reset.status.chk) ∧
    (∃ t, step (State.reset.withFetchWord 32 0x00000000) = .next t ∧ t.status.err ≠ State.reset.status.err) :=
  ⟨⟨_, rfl, by decide⟩, ⟨_, rfl, by decide⟩⟩

theorem witness_FbufBytesChangeOnlyByTheirWriters :
    (∃ t, step (State.reset.withFetchWord 32 0x11000000) = .next t ∧ t.fbuf.read 1 ≠ State.reset.fbuf.read 1) ∧
    (∃ t, step (bodyV4.withFetchWord 32 0x05000005) = .next t ∧ t.fbuf.read 6 ≠ bodyV4.fbuf.read 6) ∧
    (∃ t, step { State.reset with events := [.access 0 (.write 0x1000 8 0x5A)] } = .next t ∧
      t.fbuf.read 0 ≠ State.reset.fbuf.read 0) :=
  ⟨⟨_, rfl, by decide⟩, ⟨_, rfl, by decide⟩, ⟨_, rfl, by decide⟩⟩

theorem witness_ResetSetsTheTable :
    ({ requestV2 with events := [.reset] } : State).events = .reset :: [] := rfl

theorem witness_EveryStepKeepsTheInvariant :
    (requestV2.withFetchWord 32 0x06000008).Inv ∧
    ∃ t, step (requestV2.withFetchWord 32 0x06000008) = .next t :=
  ⟨⟨by decide, by decide, by decide, by decide, by decide⟩, _, rfl⟩

theorem witness_EveryRunKeepsTheInvariant :
    (bodyV4.withFetchWord 32 0x05000005).Inv ∧
    ∃ t, core.run 1 (bodyV4.withFetchWord 32 0x05000005) = .next t :=
  ⟨⟨by decide, by decide, by decide, by decide, by decide⟩, _, rfl⟩

theorem witness_CommandStatementsAreCmdWrites :
    (Instr.frameCheck 4095 4095).wf = true ∧ (Instr.crcBuf 4096 0).wf = false ∧ (4095 < 4096) ∧ (255 < 256) := by decide

theorem witness_WritesOfAReadValueArePlainWrites :
    ({ requestV2 with reply := .data 0x03 } : State).reply = .data 0x03 ∧ State.reset.reply = .idle ∧
    (∃ t, hostAccess (.write 0x014 32 0xABCD) State.reset = .next t ∧ t.reply = .written) ∧
    (∃ t, hostAccess (.read 0x1001 8) requestV2 = .next t) := ⟨rfl, rfl, ⟨_, rfl, rfl⟩, ⟨_, rfl⟩⟩

theorem witness_ExcFrameBuildsTheExceptionFrame :
    requestV2.params.Legal ∧ requestV2.events = [] ∧ requestV2.Holds 0 [0x01, 0x03] := ⟨by decide, rfl, by decide⟩

theorem witness_Get16ReadsWhatPut16Wrote :
    State.reset.params.Legal ∧ 254 + 2 ≤ State.reset.params.nBuf ∧ State.reset.events = [] :=
  ⟨by decide, by decide, rfl⟩

end Sys2Proof.Tests
end

/-! PROOFS. The invariant of Safety.lean: every named update of the state keeps it, under the bound the update needs;
from these every command, every host access, every step and every run keeps it. -/

namespace Sys2Proof.Machine

/-! ## STATUS stays legal (R28) -/

theorem Status.Legal.succeeded {t : Status} (h : t.Legal) : t.succeeded.Legal := ⟨h.1, by simp⟩

theorem Status.Legal.failed {t : Status} (h : t.Legal) {code : ErrCode} (hcode : code ≠ .noError) :
    (t.failed code).Legal := ⟨h.1, by simpa using hcode⟩

/-- Writing CHK and CAUSE keeps STATUS legal when the two are a legal pair, that is legal in an error-free STATUS. -/
theorem Status.Legal.checked {t : Status} (h : t.Legal) {chk : Chk} {cause : Cause}
    (hpair : (Status.mk chk cause false .noError).Legal) : (t.checked chk cause).Legal := ⟨hpair.1, h.2⟩

theorem errCodeOf_ne_noError (e : DecodeError) : errCodeOf e ≠ .noError := by cases e <;> decide

/-! ## Each update of the state keeps the invariant -/

namespace State.Inv

variable {s t : State}

/-- The invariant speaks of the parameters, FBUF, STATUS and LEN only. -/
theorem of_same (h : s.Inv) (hparams : t.params = s.params) (hfbuf : t.fbuf = s.fbuf)
    (hstatus : t.status = s.status) (hlen : t.len = s.len) : t.Inv where
  params_legal := hparams ▸ h.params_legal
  fbuf_wf := hfbuf ▸ h.fbuf_wf
  fbuf_inside := by rw [hfbuf, hparams]; exact h.fbuf_inside
  status_legal := hstatus ▸ h.status_legal
  len_fits := by rw [hlen, hparams]; exact h.len_fits

theorem setCrc (h : s.Inv) (v : Half) : (s.setCrc v).Inv := h.of_same rfl rfl rfl rfl

theorem setData (h : s.Inv) (v : Half) : (s.setData v).Inv := h.of_same rfl rfl rfl rfl

theorem setResult (h : s.Inv) (v : Word) : (s.setResult v).Inv := h.of_same rfl rfl rfl rfl

theorem setSlaveId (h : s.Inv) (v : Byte) : (s.setSlaveId v).Inv := h.of_same rfl rfl rfl rfl

theorem setReply (h : s.Inv) (r : Reply) : (s.setReply r).Inv := h.of_same rfl rfl rfl rfl

theorem withEvents (h : s.Inv) (rest : List Event) : ({ s with events := rest } : State).Inv :=
  h.of_same rfl rfl rfl rfl

theorem memWrite (h : s.Inv) {i : Nat} (hi : i < s.params.nBuf) (v : Byte) : (s.memWrite i v).Inv :=
  { h with
    fbuf_wf := Memory.write_wf h.fbuf_wf i v
    fbuf_inside := Memory.write_inside h.fbuf_inside hi }

theorem writeCrc (h : s.Inv) {i : Nat} (hi : i + 1 < s.params.nBuf) (c : Half) : (s.writeCrc i c).Inv :=
  (h.memWrite (Nat.lt_of_succ_lt hi) (lowByte c)).memWrite hi (highByte c)

theorem writeBigEndian (h : s.Inv) {i : Nat} (hi : i + 1 < s.params.nBuf) (v : Half) : (s.writeBigEndian i v).Inv :=
  (h.memWrite (Nat.lt_of_succ_lt hi) (highByte v)).memWrite hi (lowByte v)

/-- N_BUF is at most 4096 (R7), so a length that fits FBUF fits the 16 bits of LEN. -/
theorem setLen (h : s.Inv) {n : Nat} (hn : 2 ≤ n) (hfits : n ≤ s.params.nBuf) : (s.setLen n).Inv :=
  { h with
    len_fits := by
      obtain ⟨-, hmax, -⟩ := h.params_legal
      have hval : (BitVec.ofNat 16 n).toNat = n := by
        rw [BitVec.toNat_ofNat]; exact Nat.mod_eq_of_lt (by omega)
      right
      rw [State.setLen_len, State.setLen_params, hval]
      exact ⟨hn, hfits⟩ }

theorem setCheck (h : s.Inv) {chk : Chk} {cause : Cause} (hpair : (Status.mk chk cause false .noError).Legal) :
    (s.setCheck chk cause).Inv := { h with status_legal := h.status_legal.checked hpair }

theorem succeed (h : s.Inv) : s.succeed.Inv := { h with status_legal := h.status_legal.succeeded }

theorem raiseCmdError (h : s.Inv) {code : ErrCode} (hcode : code ≠ .noError) : (s.raiseCmdError code).Inv :=
  { h with status_legal := h.status_legal.failed hcode }

/-- A reset empties FBUF and LEN under the parameters that stay, so it needs only that these are legal. -/
theorem resetBlock (hparams : s.params.Legal) : s.resetBlock.Inv where
  params_legal := hparams
  fbuf_wf := Memory.reset_wf
  fbuf_inside := fun _ hcell => absurd hcell List.not_mem_nil
  status_legal := show State.reset.status.Legal by decide
  len_fits := .inl rfl

theorem reset : State.reset.Inv := State.Inv.resetBlock (s := State.reset) (by decide)

/-! ## Commands, host accesses, steps and runs keep it -/

theorem crcVerdict (h : s.Inv) (c : Half) (lo hi : Byte) : (crcVerdict s c lo hi).Inv := by
  obtain ⟨chk, cause, heq, hpair⟩ := crcVerdict_cases s c lo hi
  rw [heq]
  obtain ⟨rfl, rfl⟩ | ⟨rfl, rfl⟩ := hpair
  · exact (h.setCrc c).setCheck (by decide)
  · exact (h.setCrc c).setCheck (by decide)

theorem of_frameGate (h : s.Inv) {a n : Nat} (hgate : frameGate a n s = .ok t) : t.Inv := by
  obtain ⟨-, rfl⟩ | ⟨-, _, -, -, rfl⟩ | ⟨-, -, c, lo, hi, -, -, -, rfl⟩ := frameGate_ok hgate
  · exact h.setCheck (by decide)
  · exact h.setCheck (by decide)
  · exact h.crcVerdict c lo hi

/-- Step 4 of R67: behind the bound check, the two bytes a command may write lie in FBUF, and so does the frame whose
length LEN takes. -/
theorem of_effectOf (h : s.Inv) {i : Instr} (hbound : boundOf i ≤ s.params.nBuf) (heff : effectOf i s = .ok t) :
    t.Inv := by
  cases i with
  | crcInit => cases heff; exact h.setCrc _
  | crcByte b => cases heff; exact h.setCrc _
  | crcBuf a n => obtain ⟨c, -, rfl⟩ := except_map_ok heff; exact h.setCrc c
  | crcAcc a n => obtain ⟨c, -, rfl⟩ := except_map_ok heff; exact h.setCrc c
  | crcAppend a n =>
    obtain ⟨c, -, rfl⟩ := except_map_ok heff
    have hend : a + n + 2 ≤ s.params.nBuf := hbound
    have hfits : n + 2 ≤ s.params.nBuf := by omega
    exact ((h.writeCrc hend c).setCrc c).setLen (Nat.le_add_left 2 n) hfits
  | frameCheck a n => exact h.of_frameGate heff
  | regToU16 a => obtain ⟨v, -, rfl⟩ := except_map_ok heff; exact h.setResult _
  | u16ToReg a => cases heff; exact h.writeBigEndian hbound s.data
  | f32WordSwap a => obtain ⟨v, -, rfl⟩ := except_map_ok heff; exact h.setResult v

theorem of_exec (h : s.Inv) {i : Instr} (hexec : exec i s = .next t) : t.Inv := by
  obtain ⟨-, rfl⟩ | ⟨hbound, u, heff, rfl⟩ := exec_next_cases hexec
  · exact h.raiseCmdError (by decide)
  · exact (h.of_effectOf hbound heff).succeed

theorem of_command (h : s.Inv) {w : Word} (hcmd : command w s = .next t) : t.Inv := by
  obtain ⟨e, -, rfl⟩ | ⟨i, -, hexec⟩ := command_next hcmd
  · exact h.raiseCmdError (errCodeOf_ne_noError e)
  · exact h.of_exec hexec

theorem of_writeReg (h : s.Inv) {r : Reg} {v : Word} (hwrite : writeReg r v s = .next t) : t.Inv := by
  cases r with
  | cmd => exact h.of_command hwrite
  | crc => cases hwrite; exact h.setCrc _
  | slaveId => cases hwrite; exact h.setSlaveId _
  | data => cases hwrite; exact h.setData _
  | status | crcWire | result | len | config => cases hwrite; exact h

theorem of_hostRead (h : s.Inv) {off width : Nat} (hread : hostRead off width s = .next t) : t.Inv := by
  obtain ⟨v, rfl⟩ := hostRead_next hread
  exact h.setReply _

theorem of_hostWrite (h : s.Inv) {off width : Nat} {v : Word} (hwrite : hostWrite off width v s = .next t) : t.Inv := by
  obtain ⟨r, -, -, hreg⟩ | ⟨i, hi, -, -, rfl⟩ := hostWrite_next hwrite
  · exact (h.setReply .written).of_writeReg hreg
  · exact (h.memWrite hi _).setReply .written

theorem of_step (h : s.Inv) (hstep : step s = .next t) : t.Inv := by
  obtain ⟨-, rfl⟩ | ⟨rest, -, rfl⟩ | ⟨c, rest, -, rfl⟩ | ⟨off, width, rest, -, -, hread⟩ |
    ⟨off, width, v, rest, -, -, hwrite⟩ := step_next_cases hstep
  · exact h
  · exact resetBlock h.params_legal
  · exact h.of_same rfl rfl rfl rfl
  · exact (h.withEvents rest).of_hostRead hread
  · exact (h.withEvents rest).of_hostWrite hwrite

end State.Inv

/-- A run that ends in a state takes a first step that answers one, and goes on from there. -/
theorem run_succ_next {k : Nat} {s u : State} (h : core.run (k + 1) s = .next u) :
    ∃ t, step s = .next t ∧ core.run k t = .next u := by
  cases hs : step s with
  | next t => exact ⟨t, rfl, run_succ hs ▸ h⟩
  | fault f => simp only [Host.Core.run, show core.step s = .fault f from hs] at h; cases h
  | refused r => simp only [Host.Core.run, show core.step s = .refused r from hs] at h; cases h

/-- What every step keeps, every run keeps. -/
theorem run_keeps {P : State → Prop} (hstep : ∀ s t : State, P s → step s = .next t → P t)
    (k : Nat) (s t : State) (hs : P s) (hrun : core.run k s = .next t) : P t := by
  induction k generalizing s with
  | zero => cases hrun; exact hs
  | succ k ih =>
    obtain ⟨u, hu, hrest⟩ := run_succ_next hrun
    exact ih u (hstep s u hs hu) hrest

/-! ## The obligations -/

/-- Settles O54: the events a step can perform, each by the update it makes. -/
theorem everyStepKeepsTheInvariant : Obligations.EveryStepKeepsTheInvariant :=
  fun _ _ hs hstep => hs.of_step hstep

/-- Settles O55, by induction on the length of the run from O54. -/
theorem everyRunKeepsTheInvariant : Obligations.EveryRunKeepsTheInvariant :=
  run_keeps everyStepKeepsTheInvariant

/-- Settles O53: the start state is the block reset under the default parameters, which are legal. -/
theorem theStartStateMeetsTheInvariant : Obligations.TheStartStateMeetsTheInvariant := State.Inv.reset

end Sys2Proof.Machine

/-! PROOFS. The family 10_state.md: what a command writes and reads (R33), what the host sees and writes in each register
(R21 to R31), and who changes what over a step. The updates of a command and of a step are said once, as `Writes` and
`StepEffect`; the frames are read off these two. -/

namespace Sys2Proof.Machine

open Sys2Proof.Claims

/-! ## Two bytes written side by side -/

/-- Two neighbouring bytes written at i change no other byte. -/
theorem Memory.read_write_two_other (m : Memory) {i j : Nat} (x y : Byte) (h : j < i ∨ i + 2 ≤ j) :
    ((m.write i x).write (i + 1) y).read j = m.read j := by
  rw [Memory.read_write_other _ _ _ _ (by omega), Memory.read_write_other _ _ _ _ (by omega)]

theorem Memory.read_write_two_first (m : Memory) (i : Nat) (x y : Byte) :
    ((m.write i x).write (i + 1) y).read i = some x := by
  rw [Memory.read_write_other _ _ _ _ (by omega), Memory.read_write_same]

/-- What the two bytes read as afterwards does not depend on what FBUF held. -/
theorem Memory.read_write_two_same (m m' : Memory) (i : Nat) (x y : Byte) :
    ∀ k < 2, ((m.write i x).write (i + 1) y).read (i + k) = ((m'.write i x).write (i + 1) y).read (i + k) := by
  intro k hk
  obtain rfl | rfl : k = 0 ∨ k = 1 := by omega
  · simp
  · simp

/-! ## The "writes" column of R33 -/

/-- The update by which a command that succeeds can turn `s` into another state, before success clears the error
fields: the "writes on success" column of R33. -/
inductive Writes (s : State) : Instr → State → Prop
  | crcInit (c : Half) : Writes s .crcInit (s.setCrc c)
  | crcByte (b : Nat) (c : Half) : Writes s (.crcByte b) (s.setCrc c)
  | crcBuf (a n : Nat) (c : Half) : Writes s (.crcBuf a n) (s.setCrc c)
  | crcAcc (a n : Nat) (c : Half) : Writes s (.crcAcc a n) (s.setCrc c)
  | crcAppend (a n : Nat) (c : Half) :
      Writes s (.crcAppend a n) (((s.writeCrc (a + n) c).setCrc c).setLen (n + 2))
  | frameCheck (a n : Nat) (c : Half) (chk : Chk) (cause : Cause) :
      Writes s (.frameCheck a n) ((s.setCrc c).setCheck chk cause)
  | regToU16 (a : Nat) (v : Word) : Writes s (.regToU16 a) (s.setResult v)
  | u16ToReg (a : Nat) : Writes s (.u16ToReg a) (s.writeBigEndian a s.data)
  | f32WordSwap (a : Nat) (v : Word) : Writes s (.f32WordSwap a) (s.setResult v)

/-- FRAME_CHECK writes CHK and CAUSE; the branches that compute no CRC leave CRC as it was. -/
theorem frameGate_writes {a n : Nat} {s u : State} (h : frameGate a n s = .ok u) : Writes s (.frameCheck a n) u := by
  obtain ⟨-, rfl⟩ | ⟨-, _, -, -, rfl⟩ | ⟨-, -, c, lo, hi, -, -, -, rfl⟩ := frameGate_ok h
  · exact .frameCheck a n s.crc _ _
  · exact .frameCheck a n s.crc _ _
  · obtain ⟨chk, cause, heq, -⟩ := crcVerdict_cases s c lo hi
    exact heq ▸ .frameCheck a n c chk cause

theorem effectOf_writes {i : Instr} {s u : State} (h : effectOf i s = .ok u) : Writes s i u := by
  cases i with
  | crcInit => cases h; exact .crcInit _
  | crcByte b => cases h; exact .crcByte b _
  | crcBuf a n => obtain ⟨c, -, rfl⟩ := except_map_ok h; exact .crcBuf a n c
  | crcAcc a n => obtain ⟨c, -, rfl⟩ := except_map_ok h; exact .crcAcc a n c
  | crcAppend a n => obtain ⟨c, -, rfl⟩ := except_map_ok h; exact .crcAppend a n c
  | frameCheck a n => exact frameGate_writes h
  | regToU16 a => obtain ⟨v, -, rfl⟩ := except_map_ok h; exact .regToU16 a _
  | u16ToReg a => cases h; exact .u16ToReg a
  | f32WordSwap a => obtain ⟨v, -, rfl⟩ := except_map_ok h; exact .f32WordSwap a v

/-- A command that answers a next state raised OUT_OF_BOUNDS, or made its writes and succeeded. -/
theorem exec_next_writes {i : Instr} {s t : State} (h : exec i s = .next t) :
    t = s.raiseCmdError .outOfBounds ∨ ∃ u, Writes s i u ∧ t = u.succeed := by
  obtain ⟨-, rfl⟩ | ⟨-, u, heff, rfl⟩ := exec_next_cases h
  · exact .inl rfl
  · exact .inr ⟨u, effectOf_writes heff, rfl⟩

/-- Settles O32: an error and a success write ERR and ERRCODE, and a success what `Writes` gives the command. -/
theorem commandsThatStoreNothingKeepTheRest : Obligations.CommandsThatStoreNothingKeepTheRest := by
  intro i s t h
  refine ⟨?_, ?_, ?_⟩
  · rintro (⟨b, rfl⟩ | rfl | ⟨a, n, rfl⟩ | ⟨a, n, rfl⟩) <;>
      obtain rfl | ⟨_, ⟨⟩, rfl⟩ := exec_next_writes h <;> exact ⟨fun _ => rfl, rfl⟩
  · rintro ⟨a, n, rfl⟩
    obtain rfl | ⟨_, ⟨⟩, rfl⟩ := exec_next_writes h <;> exact ⟨fun _ => rfl, rfl⟩
  · rintro (⟨a, rfl⟩ | ⟨a, rfl⟩) <;>
      obtain rfl | ⟨_, ⟨⟩, rfl⟩ := exec_next_writes h <;> exact ⟨fun _ => rfl, rfl⟩

/-- Settles O33: the two bytes CRC_APPEND and U16_TO_REG write are neighbours, so no byte outside them changes. -/
theorem commandsThatStoreKeepTheRest : Obligations.CommandsThatStoreKeepTheRest := by
  constructor
  · intro a n s t h
    obtain rfl | ⟨_, ⟨c⟩, rfl⟩ := exec_next_writes h
    · exact ⟨fun _ _ => rfl, rfl⟩
    · exact ⟨fun _ hj => Memory.read_write_two_other s.fbuf _ _ hj, rfl⟩
  · intro a s t h
    obtain rfl | ⟨_, ⟨⟩, rfl⟩ := exec_next_writes h
    · exact ⟨fun _ _ => rfl, rfl⟩
    · exact ⟨fun _ hj => Memory.read_write_two_other s.fbuf _ _ hj, rfl⟩

/-! ## The "reads" column of R33 -/

/-- Two effects end alike: in the same fault, or in two states that `P` relates. -/
def EndAlike (P : State → State → Prop) (r r' : Except Fault State) : Prop :=
  (∃ f, r = .error f ∧ r' = .error f) ∨ ∃ u u', r = .ok u ∧ r' = .ok u' ∧ P u u'

theorem EndAlike.ok {P : State → State → Prop} {u u' : State} (h : P u u') : EndAlike P (.ok u) (.ok u') :=
  .inr ⟨u, u', rfl, rfl, h⟩

/-- Effects that go on alike after one common read end alike. -/
theorem EndAlike.bind {α : Type} {P : State → State → Prop} (r : Except Fault α) {f g : α → Except Fault State}
    (h : ∀ x, EndAlike P (f x) (g x)) : EndAlike P (r.bind f) (r.bind g) := by
  cases r with
  | error e => exact .inl ⟨e, rfl, rfl⟩
  | ok x => exact h x

theorem EndAlike.map {α : Type} {P : State → State → Prop} (r : Except Fault α) {f g : α → State}
    (h : ∀ x, P (f x) (g x)) : EndAlike P (r.map f) (r.map g) := by
  cases r with
  | error e => exact .inl ⟨e, rfl, rfl⟩
  | ok x => exact .ok (h x)

theorem u16At_congr {s t : State} {i : Nat} (h : SameBytes s t i 2) : u16At s i = u16At t i := by
  have hfirst : memRead s i = memRead t i := memRead_congr (h 0 (by omega))
  have hsecond : memRead s (i + 1) = memRead t (i + 1) := memRead_congr (h 1 (by omega))
  rw [u16At, u16At, hfirst, hsecond]

theorem f32At_congr {s t : State} {i : Nat} (hparams : s.params = t.params) (h : SameBytes s t i 4) :
    f32At s i = f32At t i := by
  have hfirst : SameBytes s t i 2 := fun k hk => h k (by omega)
  have hsecond : SameBytes s t (i + 2) 2 := fun k hk => by simpa [Nat.add_assoc] using h (2 + k) (by omega)
  rw [f32At, u16At_congr hfirst, u16At_congr hsecond, hparams, f32At]

/-- The verdict writes the same on the same CRC and trailing bytes. -/
theorem crcVerdict_sameWrites (a n : Nat) (s t : State) (c : Half) (lo hi : Byte) :
    SameWrites (.frameCheck a n) s t (crcVerdict s c lo hi) (crcVerdict t c lo hi) := by
  by_cases h : lo = lowByte c ∧ hi = highByte c
  · obtain ⟨rfl, rfl⟩ := h
    rw [crcVerdict_pass, crcVerdict_pass]
    exact ⟨rfl, rfl, .inl rfl⟩
  · rw [crcVerdict_mismatch h, crcVerdict_mismatch h]
    exact ⟨rfl, rfl, .inl rfl⟩

/-- FRAME_CHECK reads nothing of a short frame, only the id byte of one for another device, and else the whole frame. -/
theorem frameGate_alike {a n : Nat} {s t : State} (h : SameReads (.frameCheck a n) s t) :
    EndAlike (SameWrites (.frameCheck a n) s t) (frameGate a n s) (frameGate a n t) := by
  obtain hn | hn := Nat.lt_or_ge n 8
  · rw [frameGate_short hn, frameGate_short hn]
    exact .ok ⟨rfl, rfl, .inr ⟨rfl, rfl⟩⟩
  obtain ⟨hid, hbyte, hframe⟩ := h.2 hn
  have hlong : ¬ n < minFrame := Nat.not_lt.2 hn
  rw [frameGate, frameGate, if_neg hlong, if_neg hlong, memRead_congr hbyte, ← hid]
  rcases hb : t.fbuf.read a with _ | id
  · rw [memRead_of_none hb]; exact .inl ⟨_, rfl, rfl⟩
  rw [memRead_of_some hb]
  change EndAlike _ (if id ≠ s.slaveId then _ else _) (if id ≠ s.slaveId then _ else _)
  by_cases hne : id ≠ s.slaveId
  · rw [if_pos hne, if_pos hne]
    exact .ok ⟨rfl, rfl, .inr ⟨rfl, rfl⟩⟩
  · have hsame : SameBytes s t a n := hframe (by rw [hbyte, hb, not_not.1 hne])
    have hbody : crc16 s a (n - 2) = crc16 t a (n - 2) := crc16From_congr fun k hk => hsame k (by omega)
    have hlo : memRead s (a + n - 2) = memRead t (a + n - 2) :=
      memRead_congr (by rw [Nat.add_sub_assoc (by omega)]; exact hsame (n - 2) (by omega))
    have hhi : memRead s (a + n - 1) = memRead t (a + n - 1) :=
      memRead_congr (by rw [Nat.add_sub_assoc (by omega)]; exact hsame (n - 1) (by omega))
    rw [if_neg hne, if_neg hne, hbody, hlo, hhi]
    exact .bind _ fun c => .bind _ fun lo => .map _ fun hi => crcVerdict_sameWrites a n s t c lo hi

/-- Step 4 of R67 ends alike in two states that agree on what R33 lists as read. -/
theorem effectOf_alike {i : Instr} {s t : State} (h : SameReads i s t) :
    EndAlike (SameWrites i s t) (effectOf i s) (effectOf i t) := by
  cases i with
  | crcInit => exact .ok rfl
  | crcByte b => exact .ok (congrArg (fun c => crcStep c (dataByte b)) h.2)
  | crcBuf a n =>
    have hcrc : crc16 s a n = crc16 t a n := crc16From_congr h.2
    rw [effectOf, effectOf, hcrc]
    exact .map _ fun _ => rfl
  | crcAcc a n =>
    obtain ⟨-, hacc, hbytes⟩ := h
    rw [effectOf, effectOf, hacc, crc16From_congr hbytes]
    exact .map _ fun _ => rfl
  | crcAppend a n =>
    have hcrc : crc16 s a n = crc16 t a n := crc16From_congr h.2
    rw [effectOf, effectOf, hcrc]
    exact .map _ fun c => ⟨Memory.read_write_two_same s.fbuf t.fbuf (a + n) _ _, rfl, rfl⟩
  | frameCheck a n => exact frameGate_alike h
  | regToU16 a =>
    rw [effectOf, effectOf, u16At_congr h.2]
    exact .map _ fun _ => rfl
  | u16ToReg a =>
    have hdata : s.data = t.data := h.2
    rw [effectOf, effectOf, hdata]
    exact .ok (Memory.read_write_two_same s.fbuf t.fbuf a _ _)
  | f32WordSwap a =>
    rw [effectOf, effectOf, f32At_congr h.1 h.2]
    exact .map _ fun _ => rfl

/-- Success touches nothing that R33 lists as written. -/
theorem sameWrites_succeed {i : Instr} {s t u u' : State} (h : SameWrites i s t u u') :
    SameWrites i s t u.succeed u'.succeed := by
  cases i <;> exact h

/-- Settles O34: the parameters decide the bound check alike, and behind it the effects end alike. -/
theorem commandsDependOnlyOnWhatTheyRead : Obligations.CommandsDependOnlyOnWhatTheyRead := by
  intro i s t h
  have hparams : s.params = t.params := h.1
  simp only [exec_eq_bound_effect]
  obtain hbound | hbound := Nat.lt_or_ge s.params.nBuf (boundOf i)
  · rw [withinBound_gt hbound, withinBound_gt (hparams ▸ hbound)]
    exact .inr ⟨_, _, rfl, rfl, rfl, rfl, fun herr => by cases herr⟩
  · rw [withinBound_le hbound, withinBound_le (hparams ▸ hbound)]
    obtain ⟨f, hs, ht⟩ | ⟨u, u', hs, ht, hsame⟩ := effectOf_alike h
    · rw [hs, ht]; exact .inl ⟨f, rfl, rfl⟩
    · rw [hs, ht]; exact .inr ⟨_, _, rfl, rfl, rfl, rfl, fun _ => sameWrites_succeed hsame⟩

/-! ## Registers in the host window -/

/-- STATUS as a number: CHK, CAUSE, ERR and ERRCODE from bit 0 up (R28). -/
theorem Status.bits_toNat (t : Status) :
    t.bits.toNat = t.errcode.bits.toNat * 2 ^ 5 + (if t.err then 1 else 0) * 2 ^ 4 + t.cause.bits.toNat * 2 ^ 2 +
      t.chk.bits.toNat := by
  have hchk := t.chk.bits.isLt
  have hcause := t.cause.bits.isLt
  have herr : (BitVec.ofBool t.err).toNat = if t.err then 1 else 0 := by cases t.err <;> rfl
  have herrLt := (BitVec.ofBool t.err).isLt
  rw [Status.bits, BitVec.toNat_append, BitVec.toNat_append, BitVec.toNat_append,
    ← Nat.shiftLeft_add_eq_or_of_lt hchk, ← Nat.shiftLeft_add_eq_or_of_lt hcause,
    ← Nat.shiftLeft_add_eq_or_of_lt herrLt, herr]
  simp only [Nat.shiftLeft_eq]
  omega

/-- Settles O39: the fields of STATUS, each read off the sum `Status.bits_toNat`. -/
theorem hostReadOfStatus : Obligations.HostReadOfStatus := by
  intro s
  have hv : (readReg .status s).toNat = s.status.bits.toNat := by
    rw [readReg, BitVec.toNat_setWidth]; exact Nat.mod_eq_of_lt (by have := s.status.bits.isLt; omega)
  have hchk := s.status.chk.bits.isLt
  have hcause := s.status.cause.bits.isLt
  have herrcode := s.status.errcode.bits.isLt
  have herr : (if s.status.err then 1 else 0) < 2 := by split <;> decide
  rw [Status.bits_toNat] at hv
  refine ⟨readReg .status s, hostAccess_readReg .status s, ?_, ?_, ?_, ?_, ?_⟩
  · refine Eq.trans (b := s.status.chk.bits.toNat) (by omega) ?_
    cases s.status.chk <;> rfl
  · refine Eq.trans (b := s.status.cause.bits.toNat) (by omega) ?_
    cases s.status.cause <;> rfl
  · omega
  · refine Eq.trans (b := s.status.errcode.bits.toNat) (by omega) ?_
    cases s.status.errcode <;> rfl
  · omega

/-- The low n bits of a value, as the register that takes them. -/
theorem ofNat_mod_eq_setWidth (n : Nat) (v : Word) : BitVec.ofNat n (v.toNat % 2 ^ n) = v.setWidth n := by
  apply BitVec.eq_of_toNat_eq
  simp

/-- Settles O40: each write is the register's own (`hostAccess_writeReg`). -/
theorem hostWritesOfEveryRegister : Obligations.HostWritesOfEveryRegister := by
  intro s v writes
  simp only [writes, ofNat_mod_eq_setWidth]
  exact ⟨hostAccess_writeReg .crc v s, hostAccess_writeReg .slaveId v s, hostAccess_writeReg .data v s,
    hostAccess_writeReg .status v s, hostAccess_writeReg .crcWire v s, hostAccess_writeReg .result v s,
    hostAccess_writeReg .len v s, hostAccess_writeReg .config v s⟩

theorem lowByte_eq_lo8 (v : Half) : lowByte v = lo8 v := rfl

theorem highByte_eq_hi8 (v : Half) : highByte v = hi8 v := by
  apply BitVec.eq_of_toNat_eq
  simp [highByte]

/-- CRC_WIRE as a number. -/
theorem readReg_crcWire (s : State) :
    readReg .crcWire s = BitVec.ofNat 32 ((lo8 s.crc).toNat * 2 ^ 8 + (hi8 s.crc).toNat) := by
  apply BitVec.eq_of_toNat_eq
  have hhigh := (hi8 s.crc).isLt
  rw [readReg, BitVec.toNat_setWidth, crcWire, lowByte_eq_lo8, highByte_eq_hi8, BitVec.toNat_append,
    ← Nat.shiftLeft_add_eq_or_of_lt hhigh, Nat.shiftLeft_eq, BitVec.toNat_ofNat]

/-- After CRC_APPEND the two bytes behind the body, read as a register, are the CRC swapped. -/
theorem u16At_crcAppend {a n : Nat} {s t : State} (hbound : a + n + 2 ≤ s.params.nBuf)
    (h : exec (.crcAppend a n) s = .next t) : u16At t (a + n) = .ok (crcWire t.crc) := by
  obtain ⟨hgt, -⟩ | ⟨-, u, heff, rfl⟩ := exec_next_cases h
  · exact absurd hbound (Nat.not_le.2 hgt)
  · obtain ⟨c⟩ := effectOf_writes heff
    exact u16At_of_bytes (Memory.read_write_two_first s.fbuf _ _ _) (Memory.read_write_same _ _ _)

/-- Settles O41: reads and writes of the register, its value as a number, and the two bytes CRC_APPEND leaves. -/
theorem crcWireIsTheSwappedCrc : Obligations.CrcWireIsTheSwappedCrc := by
  refine ⟨readReg_crcWire, hostAccess_readReg .crcWire, fun s v => hostAccess_writeReg .crcWire v s, rfl, ?_, ?_⟩
  · intro a n s t hbound h
    rw [u16At_crcAppend hbound h, readReg]
    simp
  · intro s hcrc
    rw [readReg, hcrc]
    rfl

/-! ## Where a command can stop -/

theorem crc16From_error {s : State} {c : Half} {a n : Nat} {f : Fault} (h : crc16From s c a n = .error f) :
    ∃ k < n, s.fbuf.read (a + k) = none ∧ f = .unwrittenByte (a + k) :=
  readRange_error (except_map_error h)

theorem u16At_error {s : State} {a : Nat} {f : Fault} (h : u16At s a = .error f) :
    ∃ k < 2, s.fbuf.read (a + k) = none ∧ f = .unwrittenByte (a + k) := by
  obtain h | ⟨hi, -, h⟩ := except_bind_error h
  · exact ⟨0, by decide, memRead_error_iff.1 h⟩
  · exact ⟨1, by decide, memRead_error_iff.1 (except_map_error h)⟩

theorem f32At_error {s : State} {a : Nat} {f : Fault} (h : f32At s a = .error f) :
    ∃ k < 4, s.fbuf.read (a + k) = none ∧ f = .unwrittenByte (a + k) := by
  obtain h | ⟨first, -, h⟩ := except_bind_error h
  · obtain ⟨k, hk, hf⟩ := u16At_error h
    exact ⟨k, by omega, hf⟩
  · obtain ⟨k, hk, hf⟩ := u16At_error (except_map_error h)
    exact ⟨2 + k, by omega, by rwa [← Nat.add_assoc]⟩

theorem frameGate_error {a n : Nat} {s : State} {f : Fault} (h : frameGate a n s = .error f) :
    ∃ k < n, s.fbuf.read (a + k) = none ∧ f = .unwrittenByte (a + k) := by
  unfold frameGate at h
  split at h
  · cases h
  next hn =>
  have hn : 8 ≤ n := Nat.not_lt.1 hn
  obtain h | ⟨id, -, h⟩ := except_bind_error h
  · exact ⟨0, by omega, memRead_error_iff.1 h⟩
  split at h
  · cases h
  obtain h | ⟨c, -, h⟩ := except_bind_error h
  · obtain ⟨k, hk, hf⟩ := crc16From_error h
    exact ⟨k, by omega, hf⟩
  obtain h | ⟨lo, -, h⟩ := except_bind_error h
  · exact ⟨n - 2, by omega, by rw [← Nat.add_sub_assoc (by omega)]; exact memRead_error_iff.1 h⟩
  · exact ⟨n - 1, by omega, by rw [← Nat.add_sub_assoc (by omega)]; exact memRead_error_iff.1 (except_map_error h)⟩

/-- A command's effect faults only at a byte of the range it reads that no write has reached (R55). -/
theorem effectOf_error {i : Instr} {s : State} {f : Fault} (h : effectOf i s = .error f) :
    ∃ k < (readRangeOf i).2, s.fbuf.read ((readRangeOf i).1 + k) = none ∧
      f = .unwrittenByte ((readRangeOf i).1 + k) := by
  cases i with
  | crcInit | crcByte _ | u16ToReg _ => cases h
  | crcBuf a n | crcAcc a n | crcAppend a n => exact crc16From_error (except_map_error h)
  | frameCheck a n => exact frameGate_error h
  | regToU16 a => exact u16At_error (except_map_error h)
  | f32WordSwap a => exact f32At_error (except_map_error h)

theorem exec_ne_refused (i : Instr) (s : State) (r : Refusal) : exec i s ≠ .refused r := by
  rw [exec_eq_bound_effect]
  obtain ⟨-, he⟩ | ⟨-, he⟩ := withinBound_cases (boundOf i) s (finish (effectOf i s)) <;> rw [he]
  · cases effectOf i s <;> simp
  · simp

/-- A command's fault is its effect's, behind the bound check. -/
theorem exec_fault {i : Instr} {s : State} {f : Fault} (h : exec i s = .fault f) :
    boundOf i ≤ s.params.nBuf ∧ effectOf i s = .error f := by
  rw [exec_eq_bound_effect] at h
  obtain ⟨hbound, he⟩ | ⟨-, he⟩ := withinBound_cases (boundOf i) s (finish (effectOf i s)) <;> rw [he] at h
  · refine ⟨hbound, ?_⟩
    cases heff : effectOf i s with
    | ok u => rw [heff] at h; cases h
    | error g => rw [heff] at h; cases h; rfl
  · cases h

/-- Settles O42: the read and the write are the register's own; a command word faults only where its effect does. -/
theorem cmdIsAWriteOnlyTrigger : Obligations.CmdIsAWriteOnlyTrigger := by
  refine ⟨hostAccess_readReg .cmd, fun s w => hostAccess_writeReg .cmd w s, fun s w => ?_⟩
  cases hdec : decode w with
  | error e =>
    rw [command_of_error hdec]
    exact ⟨by simp, by simp⟩
  | ok i =>
    rw [command_of_decode hdec]
    refine ⟨fun off width h => ?_, exec_ne_refused i s⟩
    obtain ⟨k, -, -, hfault⟩ := effectOf_error (exec_fault h).2
    cases hfault

/-! ## The opcode and the operands of a decoded word -/

/-- OP in the row of a command (R63). -/
def opOf : Instr → Nat
  | .crcInit => 0x01
  | .crcByte _ => 0x02
  | .crcBuf _ _ => 0x03
  | .crcAcc _ _ => 0x04
  | .crcAppend _ _ => 0x05
  | .frameCheck _ _ => 0x06
  | .regToU16 _ => 0x10
  | .u16ToReg _ => 0x11
  | .f32WordSwap _ => 0x12

theorem fieldOp_toNat (w : Word) : (fieldOp w).toNat = op w := by
  have := w.isLt
  simp only [fieldOp, op, BitVec.extractLsb'_toNat, Nat.shiftRight_eq_div_pow]
  omega

theorem fieldA_eq_opA (w : Word) : fieldA w = opA w := by
  simp only [fieldA, opA, BitVec.extractLsb'_toNat, Nat.shiftRight_eq_div_pow]

theorem fieldB_eq_opB (w : Word) : fieldB w = opB w := by
  simp only [fieldB, opB, BitVec.extractLsb'_toNat, Nat.shiftRight_zero]

theorem opcodeOf_some {b : Byte} {o : Opcode} (h : opcodeOf b = some o) (w : Word) :
    b.toNat = opOf (withOperands o w) := by
  unfold opcodeOf at h
  iterate 9
    obtain ⟨rfl, ho⟩ | ⟨-, h⟩ := ite_eq_iff.1 h
    · cases ho; rfl
  cases h

/-- A word that decodes has the opcode of a row and that row's reserved fields zero, and gives the row its operands. -/
theorem decode_ok {w : Word} {i : Instr} (h : decode w = .ok i) :
    ∃ o, opcodeOf (fieldOp w) = some o ∧ reservedClear o w = true ∧ i = withOperands o w := by
  unfold decode at h
  split at h
  · cases h
  next o ho =>
  split at h
  · next hclear => cases h; exact ⟨o, ho, hclear, rfl⟩
  · cases h

theorem op_of_decode {w : Word} {i : Instr} (h : decode w = .ok i) : op w = opOf i := by
  obtain ⟨o, ho, -, rfl⟩ := decode_ok h
  rw [← fieldOp_toNat, opcodeOf_some ho w]

theorem crcAppend_of_decode {w : Word} {a n : Nat} (h : decode w = .ok (.crcAppend a n)) :
    a = opA w ∧ n = opB w := by
  obtain ⟨o, -, -, hi⟩ := decode_ok h
  rw [← fieldA_eq_opA, ← fieldB_eq_opB]
  cases o <;> cases hi
  exact ⟨rfl, rfl⟩

theorem u16ToReg_of_decode {w : Word} {a : Nat} (h : decode w = .ok (.u16ToReg a)) : a = opA w := by
  obtain ⟨o, -, -, hi⟩ := decode_ok h
  rw [← fieldA_eq_opA]
  cases o <;> cases hi
  rfl

/-! ## Which command writes which part of the state -/

namespace Writes

variable {s u : State} {i : Instr}

theorem params_eq (h : Writes s i u) : u.params = s.params := by cases h <;> rfl

theorem data_eq (h : Writes s i u) : u.data = s.data := by cases h <;> rfl

theorem slaveId_eq (h : Writes s i u) : u.slaveId = s.slaveId := by cases h <;> rfl

theorem op_of_result_ne (h : Writes s i u) (hne : u.result ≠ s.result) : opOf i = 0x10 ∨ opOf i = 0x12 := by
  cases h with
  | regToU16 => exact .inl rfl
  | f32WordSwap => exact .inr rfl
  | _ => exact absurd rfl hne

theorem op_of_len_ne (h : Writes s i u) (hne : u.len ≠ s.len) : opOf i = 0x05 := by
  cases h with
  | crcAppend => rfl
  | _ => exact absurd rfl hne

theorem op_of_crc_ne (h : Writes s i u) (hne : u.crc ≠ s.crc) : opOf i ∈ [0x01, 0x02, 0x03, 0x04, 0x05, 0x06] := by
  cases h with
  | regToU16 | u16ToReg | f32WordSwap => exact absurd rfl hne
  | _ => simp [opOf]

theorem op_of_check_ne (h : Writes s i u) (hne : u.status.chk ≠ s.status.chk ∨ u.status.cause ≠ s.status.cause) :
    opOf i = 0x06 := by
  cases h with
  | frameCheck => rfl
  | _ => simp at hne

/-- A byte that a command changes is one of the two that CRC_APPEND or U16_TO_REG writes. -/
theorem index_of_read_ne (h : Writes s i u) {j : Nat} (hne : u.fbuf.read j ≠ s.fbuf.read j) :
    (∃ a n, i = .crcAppend a n ∧ (j = a + n ∨ j = a + n + 1)) ∨ (∃ a, i = .u16ToReg a ∧ (j = a ∨ j = a + 1)) := by
  cases h with
  | crcAppend a n c =>
    refine .inl ⟨a, n, rfl, ?_⟩
    by_contra hj
    exact hne (Memory.read_write_two_other s.fbuf _ _ (by omega))
  | u16ToReg a =>
    refine .inr ⟨a, rfl, ?_⟩
    by_contra hj
    exact hne (Memory.read_write_two_other s.fbuf _ _ (by omega))
  | _ => exact absurd rfl hne

end Writes

/-! ## What a step can do -/

/-- The registers and FBUF of `s` with this bus side: what `s` becomes when its event is taken. -/
def State.onBus (s : State) (rest : List Event) (r : Reply) (c : Nat) : State :=
  { s with events := rest, reply := r, context := c }

/-- What a step from `s` can leave behind, each change with the event that makes it. -/
inductive StepEffect (s : State) : State → Prop
  /-- No event, a hand-over, a read, or a write that a read-only register ignores. -/
  | quiet (rest : List Event) (r : Reply) (c : Nat) : StepEffect s (s.onBus rest r c)
  | reset (rest : List Event) (hnext : NextIsReset s) : StepEffect s (s.onBus rest s.reply s.context).resetBlock
  | byte (rest : List Event) (i : Nat) (v : Word) (hnext : NextWrites s (0x1000 + i) 8 v) :
      StepEffect s ((s.onBus rest .written s.context).memWrite i (v.setWidth 8))
  | crc (rest : List Event) (v : Word) (hnext : NextIsWrite s 0x008 v) :
      StepEffect s ((s.onBus rest .written s.context).setCrc (v.setWidth 16))
  | slaveId (rest : List Event) (v : Word) (hnext : NextIsWrite s 0x010 v) :
      StepEffect s ((s.onBus rest .written s.context).setSlaveId (v.setWidth 8))
  | data (rest : List Event) (v : Word) (hnext : NextIsWrite s 0x014 v) :
      StepEffect s ((s.onBus rest .written s.context).setData (v.setWidth 16))
  | cmdError (rest : List Event) (w : Word) (code : ErrCode) (hnext : NextIsWrite s 0x000 w) :
      StepEffect s ((s.onBus rest .written s.context).raiseCmdError code)
  | succeeded (rest : List Event) (w : Word) (i : Instr) (u : State) (hnext : NextIsWrite s 0x000 w)
      (hdec : decode w = .ok i) (hwrites : Writes (s.onBus rest .written s.context) i u) :
      StepEffect s u.succeed

theorem StepEffect.of_command {s t : State} {rest : List Event} {w : Word} (hnext : NextIsWrite s 0x000 w)
    (h : command w (s.onBus rest .written s.context) = .next t) : StepEffect s t := by
  obtain ⟨e, -, rfl⟩ | ⟨i, hdec, hexec⟩ := command_next h
  · exact .cmdError rest w _ hnext
  · obtain rfl | ⟨u, hwrites, rfl⟩ := exec_next_writes hexec
    · exact .cmdError rest w _ hnext
    · exact .succeeded rest w i u hnext hdec hwrites

theorem StepEffect.of_writeReg {s t : State} {rest : List Event} {r : Reg} {v : Word}
    (hnext : NextIsWrite s r.offset v) (h : writeReg r v (s.onBus rest .written s.context) = .next t) :
    StepEffect s t := by
  cases r with
  | cmd => exact .of_command hnext h
  | crc => cases h; exact .crc rest v hnext
  | slaveId => cases h; exact .slaveId rest v hnext
  | data => cases h; exact .data rest v hnext
  | status | crcWire | result | len | config => cases h; exact .quiet rest .written s.context

theorem StepEffect.of_hostWrite {s t : State} {rest : List Event} {off width : Nat} {v : Word}
    (hnext : NextWrites s off width v) (h : hostWrite off width v { s with events := rest } = .next t) :
    StepEffect s t := by
  obtain ⟨r, rfl, rfl, hreg⟩ | ⟨i, -, rfl, rfl, rfl⟩ := hostWrite_next h
  · exact .of_writeReg hnext hreg
  · exact .byte rest i v hnext

theorem step_effect {s t : State} (h : step s = .next t) : StepEffect s t := by
  obtain ⟨-, rfl⟩ | ⟨rest, he, rfl⟩ | ⟨c, rest, -, rfl⟩ | ⟨off, width, rest, -, -, hread⟩ |
    ⟨off, width, v, rest, he, -, hwrite⟩ := step_next_cases h
  · exact .quiet t.events t.reply t.context
  · exact .reset rest (congrArg List.head? he)
  · exact .quiet rest .idle c
  · obtain ⟨v, rfl⟩ := hostRead_next hread
    exact .quiet rest _ s.context
  · refine .of_hostWrite ?_ hwrite
    obtain he | ⟨f, mask, hreply, hv, he⟩ := he
    · exact .inl (congrArg List.head? he)
    · exact .inr ⟨f, mask, hreply, hv, congrArg List.head? he⟩

/-! ## Who changes what -/

theorem step_params {s t : State} (h : step s = .next t) : t.params = s.params := by
  cases step_effect h with
  | succeeded rest w i u _ _ hwrites => exact hwrites.params_eq
  | _ => rfl

/-- N_BUF is at most 4096 (R7), so it fits the 13 bits of CONFIG. -/
theorem readReg_config_toNat {s : State} (h : s.params.Legal) : (readReg .config s).toNat = s.params.nBuf := by
  obtain ⟨-, hmax, -⟩ := h
  rw [readReg, BitVec.toNat_setWidth, BitVec.toNat_ofNat]
  omega

/-- Settles O43: the register holds the parameter N_BUF, and no step changes a parameter. -/
theorem configIsAConstant : Obligations.ConfigIsAConstant := by
  refine ⟨fun s hlegal => ?_, fun s v => hostAccess_writeReg .config v s, fun s t h => step_params h⟩
  have hval := readReg_config_toNat hlegal
  obtain ⟨-, hmax, -⟩ := hlegal
  exact ⟨readReg .config s, hostAccess_readReg .config s, by omega, by omega⟩

/-- Settles O46: of the effects of a step only a reset and those commands write RESULT and LEN. -/
theorem resultAndLenChangeOnlyByTheirWriters : Obligations.ResultAndLenChangeOnlyByTheirWriters := by
  intro s t h
  cases step_effect h with
  | reset rest hnext => exact ⟨fun _ => .inl hnext, fun _ => .inl hnext⟩
  | succeeded rest w i u hnext hdec hwrites =>
    have hop := op_of_decode hdec
    refine ⟨fun hne => .inr ?_, fun hne => .inr ⟨w, hnext, hop.trans (hwrites.op_of_len_ne hne)⟩⟩
    exact (hwrites.op_of_result_ne hne).imp (fun hi => ⟨w, hnext, hop.trans hi⟩) fun hi => ⟨w, hnext, hop.trans hi⟩
  | _ => exact ⟨absurd rfl, absurd rfl⟩

/-- Settles O47: no command writes DATA or SLAVE_ID, so a reset and the host's own writes are left. -/
theorem dataAndSlaveIdChangeOnlyByTheHost : Obligations.DataAndSlaveIdChangeOnlyByTheHost := by
  intro s t h
  cases step_effect h with
  | reset rest hnext => exact ⟨fun _ => .inl hnext, fun _ => .inl hnext⟩
  | data rest v hnext => exact ⟨fun _ => .inr ⟨v, hnext⟩, absurd rfl⟩
  | slaveId rest v hnext => exact ⟨absurd rfl, fun _ => .inr ⟨v, hnext⟩⟩
  | succeeded rest w i u _ _ hwrites => exact ⟨absurd hwrites.data_eq, absurd hwrites.slaveId_eq⟩
  | _ => exact ⟨absurd rfl, absurd rfl⟩

/-- Settles O48: the commands that write CRC are the six with opcodes 0x01 to 0x06. -/
theorem crcChangesOnlyByItsWriters : Obligations.CrcChangesOnlyByItsWriters := by
  intro s t h hne
  cases step_effect h with
  | reset rest hnext => exact .inl hnext
  | crc rest v hnext => exact .inr (.inl ⟨v, hnext⟩)
  | succeeded rest w i u hnext hdec hwrites =>
    exact .inr (.inr ⟨opOf i, hwrites.op_of_crc_ne hne, w, hnext, op_of_decode hdec⟩)
  | _ => exact absurd rfl hne

/-- Settles O49: a command error keeps CHK and CAUSE, and of the commands that succeed FRAME_CHECK alone writes them. -/
theorem statusFieldsChangeOnlyByTheirWriters : Obligations.StatusFieldsChangeOnlyByTheirWriters := by
  intro s t h
  cases step_effect h with
  | reset rest hnext => exact ⟨fun _ => .inl hnext, fun _ => .inl hnext⟩
  | cmdError rest w code hnext => exact ⟨fun hne => hne.elim (absurd rfl) (absurd rfl), fun _ => .inr ⟨w, hnext⟩⟩
  | succeeded rest w i u hnext hdec hwrites =>
    refine ⟨fun hne => .inr ⟨⟨w, hnext, ?_⟩, rfl⟩, fun _ => .inr ⟨w, hnext⟩⟩
    exact (op_of_decode hdec).trans (hwrites.op_of_check_ne hne)
  | _ => exact ⟨fun hne => hne.elim (absurd rfl) (absurd rfl), fun hne => hne.elim (absurd rfl) (absurd rfl)⟩

/-- Settles O50: a host write covers its own byte, a storing command the two bytes its word names. -/
theorem fbufBytesChangeOnlyByTheirWriters : Obligations.FbufBytesChangeOnlyByTheirWriters := by
  intro s t j h hne
  cases step_effect h with
  | reset rest hnext => exact .inl hnext
  | byte rest i v hnext =>
    have hj : j = i := by
      by_contra hji
      exact hne (Memory.read_write_other s.fbuf i j _ hji)
    exact .inr (.inl ⟨v, hj ▸ hnext⟩)
  | succeeded rest w i u hnext hdec hwrites =>
    have hop := op_of_decode hdec
    obtain ⟨a, n, rfl, hj⟩ | ⟨a, rfl, hj⟩ := hwrites.index_of_read_ne hne
    · obtain ⟨rfl, rfl⟩ := crcAppend_of_decode hdec
      exact .inr (.inr (.inl ⟨w, hnext, hop, hj⟩))
    · obtain rfl := u16ToReg_of_decode hdec
      exact .inr (.inr (.inr ⟨w, hnext, hop, hj⟩))
  | _ => exact absurd rfl hne

end Sys2Proof.Machine

/-! PROOFS. The family 20_memory.md: where a command can stop (R55), which host accesses R43 admits, what a host read
returns (R40, R41, R45), and how a CMD write runs a command (R44). -/

namespace Sys2Proof.Machine

open Sys2Proof.Claims

/-! ## A command stops inside FBUF -/

/-- The bound of step 3 covers every byte a command reads (R33, R47). -/
theorem readRangeOf_le_boundOf (i : Instr) : (readRangeOf i).1 + (readRangeOf i).2 ≤ boundOf i := by
  cases i with
  | crcInit | crcByte _ | u16ToReg _ => exact Nat.zero_le _
  | crcAppend a n => exact Nat.le_add_right _ 2
  | crcBuf | crcAcc | frameCheck | regToU16 | f32WordSwap => exact Nat.le_refl _

/-- Settles O36: a fault is the effect's, behind the bound check, and the bound covers the range the effect reads. -/
theorem commandsStopOnlyAtUnwrittenBytes : Obligations.CommandsStopOnlyAtUnwrittenBytes := by
  refine fun i s => ⟨exec_ne_refused i s, fun f h => ?_⟩
  obtain ⟨hbound, heff⟩ := exec_fault h
  obtain ⟨k, hk, hnone, hf⟩ := effectOf_error heff
  have hcover := readRangeOf_le_boundOf i
  exact ⟨k, hk, hf, hnone, by omega⟩

/-! ## Bus errors -/

/-- The offsets and widths that lead nowhere are those R43 lists. -/
theorem route_none_iff (n off width : Nat) :
    route n off width = none ↔
      ((0x024 ≤ off ∧ off ≤ 0x0FFF) ∨ 0x1000 + n ≤ off) ∨
      ((off < 0x024 ∧ width ≠ 32) ∨ (0x1000 ≤ off ∧ width ≠ 8)) ∨ (off < 0x024 ∧ off % 4 ≠ 0) := by
  cases hreg : regAt off with
  | none =>
    have hoff := (regAt_none_iff_offset off).1 hreg
    simp only [route, hreg, fbufOffset, ite_eq_right_iff, reduceCtorEq, imp_false]
    omega
  | some r =>
    have hoff : off < 0x024 ∧ off % 4 = 0 := by
      by_contra hno
      rw [(regAt_none_iff_offset off).2 hno] at hreg
      cases hreg
    simp only [route, hreg, ite_eq_right_iff, reduceCtorEq, imp_false]
    omega

theorem hostRead_busError_iff (off width : Nat) (s : State) :
    hostRead off width s = .fault (.busError off width) ↔ route s.params.nBuf off width = none := by
  rcases hroute : route s.params.nBuf off width with _ | r | i
  · simp [hostRead, hroute]
  · simp [hostRead, hroute]
  · cases hbyte : s.fbuf.read i <;> simp [hostRead, hroute, memRead, hbyte]

/-- A register's own write is no bus error; a command word's by O42. -/
theorem writeReg_ne_busError (r : Reg) (v : Word) (s : State) (off width : Nat) :
    writeReg r v s ≠ .fault (.busError off width) := by
  obtain ⟨-, -, hcommand⟩ := cmdIsAWriteOnlyTrigger
  cases r with
  | cmd => exact (hcommand s v).1 off width
  | _ => simp [writeReg]

theorem hostWrite_busError_iff (off width : Nat) (v : Word) (s : State) :
    hostWrite off width v s = .fault (.busError off width) ↔ route s.params.nBuf off width = none := by
  rcases hroute : route s.params.nBuf off width with _ | r | i
  · simp [hostWrite, hroute]
  · simp [hostWrite, hroute, writeReg_ne_busError]
  · simp [hostWrite, hroute]

/-- Settles O37: in the window an access is a bus error exactly where the address map leads nowhere. -/
theorem busErrorsAreExactlyTheInadmissibleAccesses : Obligations.BusErrorsAreExactlyTheInadmissibleAccesses := by
  intro s off width v hoff unmapped wrongWidth misaligned
  have hadmits := route_none_iff s.params.nBuf off width
  rw [hostAccess_read s width hoff, hostAccess_write s width v hoff]
  exact ⟨(hostRead_busError_iff off width s).trans hadmits, (hostWrite_busError_iff off width v s).trans hadmits⟩

/-! ## FBUF bytes in the host window -/

theorem hostRead_fbuf_of_some {s : State} {i : Nat} {b : Byte} (hi : i < s.params.nBuf)
    (hb : s.fbuf.read i = some b) : hostRead (0x1000 + i) 8 s = .next (s.setReply (.data (b.setWidth 32))) := by
  simp only [hostRead, route_fbuf hi, memRead_of_some hb]

theorem hostRead_fbuf_of_none {s : State} {i : Nat} (hi : i < s.params.nBuf) (hb : s.fbuf.read i = none) :
    hostRead (0x1000 + i) 8 s = .fault (.unwrittenByte i) := by
  simp only [hostRead, route_fbuf hi, memRead_of_none hb]

theorem hostWrite_fbuf {s : State} {i : Nat} (hi : i < s.params.nBuf) (v : Word) :
    hostWrite (0x1000 + i) 8 v s = .next ((s.memWrite i (v.setWidth 8)).setReply .written) := by
  simp only [hostWrite, route_fbuf hi]

/-- Settles O44: offset 0x1000 + i leads to FBUF index i, for a read and for a write. -/
theorem fbufIndexAndOffsetNameOneByte : Obligations.FbufIndexAndOffsetNameOneByte := by
  intro s i ⟨_, hmax, _⟩ hi
  have hoff : 0x1000 + i < 0x2000 := by omega
  rw [hostAccess_read s 8 hoff]
  refine ⟨fun b hb => ?_, hostRead_fbuf_of_none hi, fun v => ?_⟩
  · rw [BitVec.ofNat_toNat]
    exact hostRead_fbuf_of_some hi hb
  · rw [hostAccess_write s 8 v hoff, hostWrite_fbuf hi, ofNat_mod_eq_setWidth]
    exact ⟨_, rfl, rfl, fun j => Memory.read_write s.fbuf i j _⟩

/-! ## Host reads -/

theorem readReg_setReply (r : Reg) (s : State) (q : Reply) : readReg r (s.setReply q) = readReg r s := by
  cases r <;> rfl

/-- What the bus carried back before does not matter to a read. -/
theorem hostRead_setReply (off width : Nat) (s : State) (q : Reply) :
    hostRead off width (s.setReply q) = hostRead off width s := by
  unfold hostRead
  rw [State.setReply_params]
  rcases route s.params.nBuf off width with _ | r | i
  · rfl
  · exact congrArg (fun v => Host.Outcome.next (s.setReply (.data v))) (readReg_setReply r s q)
  · rfl

theorem hostAccess_read_setReply (addr width : Nat) (s : State) (q : Reply) :
    hostAccess (.read addr width) (s.setReply q) = hostAccess (.read addr width) s := by
  simp only [hostAccess, State.setReply_params, hostRead_setReply]

/-- A read by bus address that answers changes nothing but the reply, which is the value read. -/
theorem hostAccess_read_next {s t : State} {addr width : Nat} (h : hostAccess (.read addr width) s = .next t) :
    ∃ v, t = s.setReply (.data v) := by
  simp only [hostAccess] at h
  split at h
  · exact hostRead_next h
  · cases h

/-- Settles O45: a read leaves only its reply behind, on which no read depends. -/
theorem hostReadsHaveNoSideEffect : Obligations.HostReadsHaveNoSideEffect := by
  intro addr width s t h
  obtain ⟨v, rfl⟩ := hostAccess_read_next h
  exact ⟨rfl, (hostAccess_read_setReply addr width s _).trans h⟩

/-- A read of a register answers its value, given as a number. -/
theorem hostAccess_readReg_toNat {r : Reg} {s : State} {n : Nat} (h : (readReg r s).toNat = n) :
    hostAccess (.read (s.params.base + r.offset) 32) s = .next { s with reply := .data (BitVec.ofNat 32 n) } := by
  rw [hostAccess_readReg, ← h, BitVec.ofNat_toNat, BitVec.setWidth_eq]
  rfl

/-- CRC_WIRE as a number: the low byte of CRC above the high byte (R22). -/
theorem readReg_crcWire_toNat (s : State) :
    (readReg .crcWire s).toNat = s.crc.toNat % 2 ^ 8 * 2 ^ 8 + s.crc.toNat / 2 ^ 8 := by
  have hhigh : s.crc.toNat / 2 ^ 8 < 2 ^ 8 := Nat.div_lt_of_lt_mul s.crc.isLt
  simp only [readReg_crcWire, BitVec.toNat_ofNat, BitVec.toNat_setWidth, BitVec.toNat_ushiftRight,
    Nat.shiftRight_eq_div_pow, Nat.mod_eq_of_lt hhigh]
  exact Nat.mod_eq_of_lt (by omega)

/-- Settles O38: each read answers the register's value; a register narrower than 32 bits is extended with zeros. -/
theorem hostReadsOfEveryRegister : Obligations.HostReadsOfEveryRegister := by
  intro s hlegal reads
  have hextend {n : Nat} (hn : n ≤ 32) (x : BitVec n) : (x.setWidth 32).toNat = x.toNat :=
    BitVec.toNat_setWidth_of_le hn
  exact ⟨hostAccess_readReg_toNat (r := .cmd) rfl,
    hostAccess_readReg_toNat (r := .crc) (hextend (by decide) s.crc),
    hostAccess_readReg_toNat (readReg_crcWire_toNat s),
    hostAccess_readReg_toNat (r := .slaveId) (hextend (by decide) s.slaveId),
    hostAccess_readReg_toNat (r := .data) (hextend (by decide) s.data),
    hostAccess_readReg_toNat (r := .result) rfl,
    hostAccess_readReg_toNat (r := .len) (hextend (by decide) s.len),
    hostAccess_readReg_toNat (readReg_config_toNat hlegal)⟩

/-! ## A host write of f | mask -/

/-- Settles O59: the access takes f from the reply, and only a read leaves one there. -/
theorem writesOfAReadValueArePlainWrites : Obligations.WritesOfAReadValueArePlainWrites := by
  refine ⟨fun s addr width f mask hf => hostAccess_writeReadOr addr width mask hf, fun s addr width mask hnone => ?_,
    fun s t addr width h => ?_⟩
  · obtain hr | hr := hnone <;> simp only [hostAccess, hr]
  · obtain ⟨v, rfl⟩ := hostAccess_read_next h
    exact ⟨v, rfl⟩

/-! ## A step that writes CMD -/

theorem decodeTableWord_some {n w : Nat} {i : Instr} (h : decodeTableWord n w = some i) :
    decode (tableWord n w) = .ok i := by
  unfold decodeTableWord at h
  split at h
  · next j hj => cases h; exact hj
  · cases h

/-- A step whose event is a CMD write performs the transaction of R44 on the word, the event taken. -/
theorem step_cmdWrite {s : State} {w : Word} {rest : List Event} (h : s.events = cmdWrite s w :: rest) :
    step s = command w { s with events := rest, reply := .written } := by
  rw [step_access h]
  exact hostAccess_writeReg .cmd w { s with events := rest }

/-- Settles O11: the transaction of a word is the command it decodes to, or its decode error. -/
theorem stepRunsTheDecodedCommand : Obligations.StepRunsTheDecodedCommand := by
  refine ⟨fun s w rest h => ?_, fun s w i _ hdec => ?_⟩
  · rw [step_cmdWrite h]
    exact ⟨fun i hdec => command_of_decode hdec _, fun herr => command_of_error herr _,
      fun herr => command_of_error herr _⟩
  · have hstep : step (s.withFetchWord 32 w) = command (tableWord 32 w) { s with reply := .written } :=
      step_cmdWrite rfl
    rw [hstep, command_of_decode (decodeTableWord_some hdec)]

end Sys2Proof.Machine

/-! PROOFS. The family 30_encoding.md: encoder and decoder are inverse to each other (R61 to R66), a CMD write runs the
five steps of R67 in order, and the host programs of R68 and R69 run as their accesses. Encoder and decoder meet at the
row of the opcode map (R63): `encode_eq_formatF0` gives the fields of a command's word, and `decode_ok_iff_fields` the
words that decode to a command. -/

namespace Sys2Proof.Machine

open Sys2Proof.Claims

/-! ## The rows of the opcode map and fields of a word -/

/-- The row of the opcode map a command belongs to (R63). -/
def rowOf : Instr → Opcode
  | .crcInit => .crcInit
  | .crcByte _ => .crcByte
  | .crcBuf _ _ => .crcBuf
  | .crcAcc _ _ => .crcAcc
  | .crcAppend _ _ => .crcAppend
  | .frameCheck _ _ => .frameCheck
  | .regToU16 _ => .regToU16
  | .u16ToReg _ => .u16ToReg
  | .f32WordSwap _ => .f32WordSwap

/-- What a command's word has in A and in B (R62, R65). -/
def fieldsOf : Instr → Nat × Nat
  | .crcInit => (0, 0)
  | .crcByte b => (0, b)
  | .crcBuf a n => (a, n)
  | .crcAcc a n => (a, n)
  | .crcAppend a n => (a, n)
  | .frameCheck a n => (a, n)
  | .regToU16 a => (a, 0)
  | .u16ToReg a => (a, 0)
  | .f32WordSwap a => (a, 0)

theorem fieldByte_eq_mod (w : Word) : fieldByte w = w.toNat % 2 ^ 8 := by
  simp only [fieldByte, BitVec.extractLsb'_toNat, Nat.shiftRight_zero]

/-- The data byte is the low part of B (R62). -/
theorem fieldByte_eq_opB_mod (w : Word) : fieldByte w = opB w % 2 ^ 8 := by
  rw [fieldByte_eq_mod, opB]
  omega

theorem fieldByteReserved_eq_div (w : Word) : fieldByteReserved w = opB w / 2 ^ 8 := by
  simp only [fieldByteReserved, opB, BitVec.extractLsb'_toNat, Nat.shiftRight_eq_div_pow]
  omega

theorem fieldOp_eq_ofNat (w : Word) : fieldOp w = BitVec.ofNat 8 (op w) := by
  rw [← fieldOp_toNat, BitVec.ofNat_toNat, BitVec.setWidth_eq]

theorem opA_lt (w : Word) : opA w < 2 ^ 12 := Nat.mod_lt _ (by decide)

theorem opB_lt (w : Word) : opB w < 2 ^ 12 := Nat.mod_lt _ (by decide)

/-- Every word is the format-F0 word of its fields (R61). -/
theorem formatF0_fields (w : Word) :
    formatF0 (BitVec.ofNat 8 (op w)) (BitVec.ofNat 12 (opA w)) (BitVec.ofNat 12 (opB w)) = w := by
  apply BitVec.eq_of_toNat_eq
  have := w.isLt
  simp only [formatF0_toNat, BitVec.toNat_ofNat, op, opA, opB]
  omega

/-! ## Step 1: the opcode -/

theorem opcodeOf_none_iff (b : Byte) : opcodeOf b = none ↔ IllegalOp b.toNat := by
  have := b.isLt
  simp only [opcodeOf, ite_eq_iff, reduceCtorEq, and_false, and_true, false_or, ← BitVec.toNat_inj, BitVec.reduceToNat]
  omega

/-- A word with a command's opcode is in that command's row. -/
theorem opcodeOf_of_op {w : Word} {i : Instr} (h : op w = opOf i) : opcodeOf (fieldOp w) = some (rowOf i) := by
  rw [fieldOp_eq_ofNat, h]
  cases i <;> rfl

theorem decode_illegalOpcode_iff (w : Word) : decode w = .error .illegalOpcode ↔ IllegalOp (op w) := by
  rw [← fieldOp_toNat, ← opcodeOf_none_iff, decode]
  cases opcodeOf (fieldOp w) with
  | none => simp
  | some o => cases hclear : reservedClear o w <;> simp [hclear]

/-! ## Step 2: the reserved fields -/

theorem decode_reservedField_iff_row (w : Word) :
    decode w = .error .reservedField ↔ ∃ o, opcodeOf (fieldOp w) = some o ∧ reservedClear o w = false := by
  rw [decode]
  cases opcodeOf (fieldOp w) with
  | none => simp
  | some o => cases hclear : reservedClear o w <;> simp [hclear]

/-- In a word of a legal row, the reserved fields are not clear exactly when one of R65's is set. -/
theorem reservedClear_eq_false_iff {w : Word} {o : Opcode} (h : opcodeOf (fieldOp w) = some o) :
    reservedClear o w = false ↔ ReservedSet w := by
  have hop : op w = opOf (withOperands o w) := by rw [← fieldOp_toNat, opcodeOf_some h w]
  cases o <;> simp [reservedClear, ReservedSet, hop, opOf, withOperands, fieldA_eq_opA, fieldB_eq_opB,
    fieldByteReserved_eq_div, imp_iff_not_or]

/-- R65 reserves fields in legal rows only. -/
theorem not_illegalOp_of_reservedSet {w : Word} (h : ReservedSet w) : ¬ IllegalOp (op w) := by
  obtain ⟨hop, -⟩ | ⟨hop, -⟩ | ⟨hop, -⟩ := h <;> omega

/-- An opcode that is not illegal is in a row. -/
theorem exists_opcodeOf {w : Word} (h : ¬ IllegalOp (op w)) : ∃ o, opcodeOf (fieldOp w) = some o := by
  rw [← fieldOp_toNat, ← opcodeOf_none_iff] at h
  exact Option.ne_none_iff_exists'.1 h

theorem decode_reservedField_iff (w : Word) : decode w = .error .reservedField ↔ ReservedSet w := by
  rw [decode_reservedField_iff_row]
  constructor
  · rintro ⟨o, ho, hclear⟩
    exact (reservedClear_eq_false_iff ho).1 hclear
  · intro hset
    obtain ⟨o, ho⟩ := exists_opcodeOf (not_illegalOp_of_reservedSet hset)
    exact ⟨o, ho, (reservedClear_eq_false_iff ho).2 hset⟩

/-- A word that fails neither check decodes. -/
theorem exists_decode_ok {w : Word} (hlegal : ¬ IllegalOp (op w)) (hclear : ¬ ReservedSet w) :
    ∃ i, decode w = .ok i := by
  cases hdec : decode w with
  | ok i => exact ⟨i, rfl⟩
  | error e =>
    cases e with
    | illegalOpcode => exact absurd ((decode_illegalOpcode_iff w).1 hdec) hlegal
    | reservedField => exact absurd ((decode_reservedField_iff w).1 hdec) hclear

/-! ## Decoding and encoding -/

/-- Steps 1 and 2 passed: a word with a command's opcode, its row's reserved fields zero and its operands in their
fields decodes to it. -/
theorem decode_of_row {w : Word} {i : Instr} (hop : op w = opOf i) (hclear : reservedClear (rowOf i) w = true)
    (hoperands : withOperands (rowOf i) w = i) : decode w = .ok i := by
  simp only [decode, opcodeOf_of_op hop, hclear, if_true, hoperands]

/-- A command's word, by its opcode and its fields (R61, R63). -/
theorem encode_eq_formatF0 (i : Instr) :
    encode i = formatF0 (BitVec.ofNat 8 (opOf i)) (BitVec.ofNat 12 (fieldsOf i).1) (BitVec.ofNat 12 (fieldsOf i).2) := by
  cases i <;> rfl

theorem encode_eq_of_fields {w : Word} {i : Instr} (hop : op w = opOf i) (hfields : fieldsOf i = (opA w, opB w)) :
    encode i = w := by
  rw [encode_eq_formatF0, ← hop, hfields, formatF0_fields]

theorem op_encode (i : Instr) : op (encode i) = opOf i := by
  rw [← fieldOp_toNat, encode_eq_formatF0, fieldOp_formatF0]
  cases i <;> rfl

/-- Every operand of a well-formed command fits its 12-bit field (R62). -/
theorem fieldsOf_lt {i : Instr} (h : i.wf = true) : (fieldsOf i).1 < 2 ^ 12 ∧ (fieldsOf i).2 < 2 ^ 12 := by
  cases i <;> simp only [Instr.wf, decide_eq_true_eq] at h <;> simp only [fieldsOf] <;> omega

theorem opA_encode {i : Instr} (h : i.wf = true) : opA (encode i) = (fieldsOf i).1 := by
  rw [← fieldA_eq_opA, encode_eq_formatF0, fieldA_formatF0, BitVec.toNat_ofNat, Nat.mod_eq_of_lt (fieldsOf_lt h).1]

theorem opB_encode {i : Instr} (h : i.wf = true) : opB (encode i) = (fieldsOf i).2 := by
  rw [← fieldB_eq_opB, encode_eq_formatF0, fieldB_formatF0, BitVec.toNat_ofNat, Nat.mod_eq_of_lt (fieldsOf_lt h).2]

theorem crcByte_lt {b : Nat} (h : (Instr.crcByte b).wf = true) : b < 2 ^ 8 := Nat.lt_succ_of_le (of_decide_eq_true h)

theorem reservedClear_encode {i : Instr} (h : i.wf = true) : reservedClear (rowOf i) (encode i) = true := by
  have ha := opA_encode h
  have hb := opB_encode h
  cases i with
  | crcByte b =>
    have hhigh : b / 2 ^ 8 = 0 := Nat.div_eq_of_lt (crcByte_lt h)
    simp [rowOf, reservedClear, fieldA_eq_opA, fieldByteReserved_eq_div, ha, hb, fieldsOf, -Nat.reducePow, hhigh]
  | _ => simp [rowOf, reservedClear, fieldA_eq_opA, fieldB_eq_opB, ha, hb, fieldsOf]

theorem withOperands_encode {i : Instr} (h : i.wf = true) : withOperands (rowOf i) (encode i) = i := by
  have ha := opA_encode h
  have hb := opB_encode h
  cases i with
  | crcByte b =>
    have hlow : b % 2 ^ 8 = b := Nat.mod_eq_of_lt (crcByte_lt h)
    simp only [rowOf, withOperands, fieldByte_eq_opB_mod, hb, fieldsOf, hlow]
  | _ => simp [rowOf, withOperands, fieldA_eq_opA, fieldB_eq_opB, ha, hb, fieldsOf]

/-- Settles O1: the word has the command's opcode, no reserved field set, and the operands in their fields. -/
theorem decodeOfEncodeIsTheCommand : Obligations.DecodeOfEncodeIsTheCommand :=
  fun i h => decode_of_row (op_encode i) (reservedClear_encode h) (withOperands_encode h)

/-- Operands read from the fields of a word fit them. -/
theorem wf_withOperands (o : Opcode) (w : Word) : (withOperands o w).wf = true := by
  have ha := opA_lt w
  have hb := opB_lt w
  cases o <;> simp [withOperands, Instr.wf, fieldA_eq_opA, fieldB_eq_opB, fieldByte_eq_opB_mod] <;> omega

/-- The fields of a word whose reserved fields are zero are those of the command it decodes to. -/
theorem fieldsOf_withOperands {o : Opcode} {w : Word} (h : reservedClear o w = true) :
    fieldsOf (withOperands o w) = (opA w, opB w) := by
  cases o <;> simp [reservedClear, fieldA_eq_opA, fieldB_eq_opB, fieldByteReserved_eq_div] at h <;>
    simp [withOperands, fieldsOf, fieldA_eq_opA, fieldB_eq_opB, fieldByte_eq_opB_mod, h]

/-- Settles O2: a decoded word has the opcode and the fields of its command, and a word is made of these. -/
theorem encodeOfDecodeIsTheWord : Obligations.EncodeOfDecodeIsTheWord := by
  intro w i h
  have hop := op_of_decode h
  obtain ⟨o, -, hclear, rfl⟩ := decode_ok h
  exact ⟨wf_withOperands o w, encode_eq_of_fields hop (fieldsOf_withOperands hclear)⟩

/-- The words that decode to a command, by their fields as numbers (R61, R63, R65). -/
theorem decode_ok_iff_fields {w : Word} {i : Instr} :
    decode w = .ok i ↔ i.wf = true ∧ op w = opOf i ∧ opA w = (fieldsOf i).1 ∧ opB w = (fieldsOf i).2 := by
  constructor
  · intro h
    obtain ⟨hwf, rfl⟩ := encodeOfDecodeIsTheWord w i h
    exact ⟨hwf, op_encode i, opA_encode hwf, opB_encode hwf⟩
  · rintro ⟨hwf, hop, ha, hb⟩
    rw [← encode_eq_of_fields hop (Prod.ext ha.symm hb.symm)]
    exact decodeOfEncodeIsTheCommand i hwf

/-- Settles O3: `decode_ok_iff_fields` at each command, the operands within their fields since they are fields. -/
theorem decodedOperandsAreTheFieldsOfTheWord : Obligations.DecodedOperandsAreTheFieldsOfTheWord := by
  intro w
  have ha := opA_lt w
  have hb := opB_lt w
  have hbyte : w.toNat % 2 ^ 8 = opB w % 2 ^ 8 := by rw [← fieldByte_eq_mod, fieldByte_eq_opB_mod]
  rw [hbyte]
  simp only [decode_ok_iff_fields, Instr.wf, opOf, fieldsOf, decide_eq_true_eq, true_and]
  refine ⟨fun b => ?_, fun a n => ?_, fun a n => ?_, fun a n => ?_, fun a n => ?_, fun a => ?_, fun a => ?_,
    fun a => ?_⟩ <;> omega

/-! ## Words that raise -/

theorem command_of_illegalOp {w : Word} (h : IllegalOp (op w)) (s : State) :
    command w s = .next (failedWith s .illegalOpcode) := command_of_error ((decode_illegalOpcode_iff w).2 h) s

theorem command_of_reservedSet {w : Word} (h : ReservedSet w) (s : State) :
    command w s = .next (failedWith s .reservedField) := command_of_error ((decode_reservedField_iff w).2 h) s

/-- Settles O4: the rows leave out exactly the opcodes R64 lists, and such a word stops at step 1. -/
theorem illegalOpcodesRaiseAndDoNothingElse : Obligations.IllegalOpcodesRaiseAndDoNothingElse :=
  ⟨decode_illegalOpcode_iff, by decide +kernel, fun _ s h => command_of_illegalOp h s,
    (decode_illegalOpcode_iff _).2 (by decide)⟩

/-- Settles O5: in a legal row, step 2 stops exactly the words with a field of R65 set. -/
theorem reservedFieldsRaiseAndDoNothingElse : Obligations.ReservedFieldsRaiseAndDoNothingElse :=
  ⟨decode_reservedField_iff, fun _ s h => command_of_reservedSet h s⟩

/-- Settles O6: the decoder computes each word. -/
theorem wordsOfTheSpecDecode : Obligations.WordsOfTheSpecDecode := by
  unfold Obligations.WordsOfTheSpecDecode
  decide

/-! ## The five steps of a CMD write (R67) -/

/-- R47's table, read off the word, is the bound of the command it decodes to. -/
theorem inBound_iff {w : Word} {i : Instr} (h : decode w = .ok i) (nBuf : Nat) :
    InBound w nBuf ↔ boundOf i ≤ nBuf := by
  obtain ⟨-, hop, ha, hb⟩ := decode_ok_iff_fields.1 h
  cases i <;> simp [InBound, hop, ha, hb, opOf, fieldsOf, boundOf]

theorem exec_of_boundOf_gt {i : Instr} {s : State} (h : s.params.nBuf < boundOf i) :
    exec i s = .next (failedWith s .outOfBounds) := by
  rw [exec_eq_bound_effect, withinBound_gt h]
  rfl

theorem exec_of_effectOf {i : Instr} {s u : State} (hbound : boundOf i ≤ s.params.nBuf) (heff : effectOf i s = .ok u) :
    exec i s = .next u.succeed := by
  rw [exec_eq_bound_effect, withinBound_le hbound, heff, finish_ok]

/-- Behind the bound check a command that answers a next state has succeeded. -/
theorem exec_next_noError {i : Instr} {s t : State} (hbound : boundOf i ≤ s.params.nBuf) (h : exec i s = .next t) :
    t.status.err = false ∧ t.status.errcode = .noError := by
  obtain ⟨hgt, -⟩ | ⟨-, u, -, rfl⟩ := exec_next_cases h
  · exact absurd hbound (Nat.not_le.2 hgt)
  · exact ⟨rfl, rfl⟩

/-- Settles O7: each step's check decides the outcome, and the bound of step 3 is that of the decoded command. -/
theorem commandRunsItsStepsInOrder : Obligations.CommandRunsItsStepsInOrder := by
  refine fun w s => ⟨(command_of_illegalOp · s), fun _ => (command_of_reservedSet · s), fun hop hclear hout => ?_,
    fun hop hclear hin => ?_⟩
  · obtain ⟨i, hdec⟩ := exists_decode_ok hop hclear
    rw [inBound_iff hdec, Nat.not_le] at hout
    rw [command_of_decode hdec, exec_of_boundOf_gt hout]
  · obtain ⟨i, hdec⟩ := exists_decode_ok hop hclear
    rw [inBound_iff hdec] at hin
    exact ⟨i, hdec, command_of_decode hdec s, fun t => exec_next_noError hin⟩

/-- Settles O35: a command is never refused, and a fault of its effect names a byte of its range without a value. -/
theorem commandsCompleteOnReadableRanges : Obligations.CommandsCompleteOnReadableRanges := by
  intro i s hread
  cases h : exec i s with
  | next t => exact ⟨t, rfl⟩
  | fault f =>
    obtain ⟨k, hk, hnone, -⟩ := effectOf_error (exec_fault h).2
    exact absurd hnone (hread k hk)
  | refused r => exact absurd h (exec_ne_refused i s r)

/-! ## Command statements (R68) -/

/-- Settles O56: O1 gives a well-formed command its word, and O2 says that an ill-formed one has none. -/
theorem commandStatementsAreCmdWrites : Obligations.CommandStatementsAreCmdWrites := by
  refine ⟨fun base i h => ⟨encode i, if_pos h, decodeOfEncodeIsTheCommand i h⟩, fun base i h => ⟨?_, fun w hdec => ?_⟩,
    fun b hb => ?_, fun a n hwide => ?_, fun a ha => ?_⟩
  · simp [Stmt.access, h]
  · obtain ⟨hwf, -⟩ := encodeOfDecodeIsTheWord w i hdec
    rw [hwf] at h
    cases h
  · simp only [Instr.wf, decide_eq_false_iff_not]
    omega
  · simp only [Instr.wf, decide_eq_false_iff_not, and_self]
    omega
  · simp only [Instr.wf, decide_eq_false_iff_not, and_self]
    omega

/-! ## The commands that the pseudo-instructions of R69 run -/

/-- What CRC_APPEND leaves of `s` when the body at `a` is `bs` (R89). -/
def State.appendCrc (s : State) (a : Nat) (bs : List Byte) : State :=
  (((s.writeCrc (a + bs.length) (crcSeeded bs)).setCrc (crcSeeded bs)).setLen (bs.length + 2)).succeed

theorem exec_crcAppend_of_holds {s : State} {a : Nat} {bs : List Byte} (hbound : a + bs.length + 2 ≤ s.params.nBuf)
    (hbytes : s.Holds a bs) : exec (.crcAppend a bs.length) s = .next (s.appendCrc a bs) := by
  refine exec_of_effectOf hbound ?_
  rw [effectOf, crc16, crc16From_of_bytes hbytes]
  rfl

theorem exec_u16ToReg_of_bound {s : State} {a : Nat} (hbound : a + 2 ≤ s.params.nBuf) :
    exec (.u16ToReg a) s = .next (s.writeBigEndian a s.data).succeed := exec_of_effectOf hbound rfl

theorem exec_regToU16_of_u16At {s : State} {a : Nat} {v : Half} (hbound : a + 2 ≤ s.params.nBuf)
    (hv : u16At s a = .ok v) : exec (.regToU16 a) s = .next (s.setResult (v.setWidth 32)).succeed := by
  refine exec_of_effectOf hbound ?_
  rw [effectOf, hv]
  rfl

theorem highByte_append_lowByte (v : Half) : highByte v ++ lowByte v = v := by
  rw [highByte, lowByte, BitVec.extractLsb'_append_extractLsb'_eq_extractLsb' (by decide)]
  simp

/-- A register written big-endian reads back as itself (R110, R112). -/
theorem u16At_writeBigEndian (s : State) (a : Nat) (v : Half) : u16At (s.writeBigEndian a v) a = .ok v := by
  have hread := u16At_of_bytes (s := s.writeBigEndian a v) (Memory.read_write_two_first s.fbuf a _ _)
    (Memory.read_write_same _ (a + 1) _)
  rwa [highByte_append_lowByte] at hread

/-! ## The accesses of a host program (R69)

A run takes the next access of the context that holds the block and goes on with the rest. -/

section

variable {k i c : Nat} {s : State} {rest : List Event} {r : Reply}

theorem run_access {t : State} {a : HostAccess} (h : hostAccess a (s.onBus rest r c) = .next t) :
    core.run (k + 1) (s.onBus (.access c a :: rest) r c) = core.run k t :=
  run_succ ((step_access rfl).trans h)

/-- `R32 REG`. -/
theorem run_readReg (q : Reg) :
    core.run (k + 1) (s.onBus (.access c (.read (s.params.base + q.offset) 32) :: rest) r c) =
      core.run k (s.onBus rest (.data (readReg q (s.onBus rest r c))) c) :=
  run_access (hostAccess_readReg q (s.onBus rest r c))

/-- `W32 DATA, v`. -/
theorem run_writeData (v : Word) :
    core.run (k + 1) (s.onBus (.access c (.write (s.params.base + Reg.data.offset) 32 v) :: rest) r c) =
      core.run k ((s.setData (v.setWidth 16)).onBus rest .written c) :=
  run_access (hostAccess_writeReg .data v (s.onBus rest r c))

/-- A command statement: its word runs the command (O1), on which the bus side has no influence. -/
theorem run_command {t : State} {j : Instr} (hwf : j.wf = true)
    (h : exec j (s.onBus rest .written c) = .next (t.onBus rest .written c)) :
    core.run (k + 1) (s.onBus (.access c (.write (s.params.base + Reg.cmd.offset) 32 (encode j)) :: rest) r c) =
      core.run k (t.onBus rest .written c) := by
  refine run_access ((hostAccess_writeReg .cmd (encode j) (s.onBus rest r c)).trans ?_)
  rw [writeReg, command_of_decode (decodeOfEncodeIsTheCommand j hwf)]
  exact h

/-- CRC_APPEND on a body whose bytes are known. -/
theorem run_crcAppend {a : Nat} {bs : List Byte} (hwf : (Instr.crcAppend a bs.length).wf = true)
    (hbound : a + bs.length + 2 ≤ s.params.nBuf) (hbytes : s.Holds a bs) :
    core.run (k + 1) (s.onBus (.access c (.write (s.params.base + Reg.cmd.offset) 32
        (encode (.crcAppend a bs.length))) :: rest) r c) =
      core.run k ((s.appendCrc a bs).onBus rest .written c) :=
  run_command hwf (exec_crcAppend_of_holds (s := s.onBus rest .written c) hbound hbytes)

/-- U16_TO_REG inside FBUF. -/
theorem run_u16ToReg {a : Nat} (hwf : (Instr.u16ToReg a).wf = true) (hbound : a + 2 ≤ s.params.nBuf) :
    core.run (k + 1) (s.onBus (.access c (.write (s.params.base + Reg.cmd.offset) 32 (encode (.u16ToReg a))) :: rest)
        r c) =
      core.run k ((s.writeBigEndian a s.data).succeed.onBus rest .written c) :=
  run_command hwf (exec_u16ToReg_of_bound (s := s.onBus rest .written c) hbound)

/-- REG_TO_U16 on a register whose value is known. -/
theorem run_regToU16 {a : Nat} {v : Half} (hwf : (Instr.regToU16 a).wf = true) (hbound : a + 2 ≤ s.params.nBuf)
    (hv : u16At s a = .ok v) :
    core.run (k + 1) (s.onBus (.access c (.write (s.params.base + Reg.cmd.offset) 32 (encode (.regToU16 a))) :: rest)
        r c) =
      core.run k ((s.setResult (v.setWidth 32)).succeed.onBus rest .written c) :=
  run_command hwf (exec_regToU16_of_u16At (s := s.onBus rest .written c) hbound hv)

variable (hlegal : s.params.Legal) (hi : i < s.params.nBuf)
include hlegal hi

theorem fbuf_offset_lt_windowSize : 0x1000 + i < 0x2000 := by
  obtain ⟨-, hmax, -⟩ := hlegal
  omega

/-- `R8 FBUF[i]`. -/
theorem run_readByte {b : Byte} (hb : s.fbuf.read i = some b) :
    core.run (k + 1) (s.onBus (.access c (.read (s.params.base + (0x1000 + i)) 8) :: rest) r c) =
      core.run k (s.onBus rest (.data (b.setWidth 32)) c) :=
  run_access ((hostAccess_read (s.onBus rest r c) 8 (fbuf_offset_lt_windowSize hlegal hi)).trans
    (hostRead_fbuf_of_some (s := s.onBus rest r c) hi hb))

theorem hostAccess_writeByte (v : Byte) :
    hostAccess (.write (s.params.base + (0x1000 + i)) 8 (v.setWidth 32)) s =
      .next ((s.memWrite i v).setReply .written) := by
  rw [hostAccess_write s 8 _ (fbuf_offset_lt_windowSize hlegal hi), hostWrite_fbuf hi,
    BitVec.setWidth_setWidth_of_le v (by decide), BitVec.setWidth_eq]

/-- `W8 FBUF[i], v`. -/
theorem run_writeByte (v : Byte) :
    core.run (k + 1) (s.onBus (.access c (.write (s.params.base + (0x1000 + i)) 8 (v.setWidth 32)) :: rest) r c) =
      core.run k ((s.memWrite i v).onBus rest .written c) :=
  run_access (hostAccess_writeByte (s := s.onBus rest r c) hlegal hi v)

/-- `W8 FBUF[i], f | mask`, f what the read before it returned. -/
theorem run_writeByteOr (f mask : Byte) :
    core.run (k + 1) (s.onBus (.access c (.writeReadOr (s.params.base + (0x1000 + i)) 8 (mask.setWidth 32)) :: rest)
        (.data (f.setWidth 32)) c) =
      core.run k ((s.memWrite i (f ||| mask)).onBus rest .written c) := by
  refine run_access ((hostAccess_writeReadOr _ 8 _ rfl).trans ?_)
  rw [← BitVec.setWidth_or]
  exact hostAccess_writeByte (s := s.onBus rest _ c) hlegal hi (f ||| mask)

end

/-! ## The pseudo-instructions EXCFRAME, PUT16 and GET16 -/

/-- Settles O57: the two byte writes put `id, f | 0x80, code` in FBUF, and CRC_APPEND puts their CRC behind them. -/
theorem excFrameBuildsTheExceptionFrame : Obligations.ExcFrameBuildsTheExceptionFrame := by
  intro s id f code hlegal hnil hrequest
  have hmin : 8 ≤ s.params.nBuf := hlegal.1
  have hid : s.fbuf.read 0 = some id := hrequest 0 Nat.zero_lt_two
  have hf : s.fbuf.read 1 = some f := hrequest 1 Nat.one_lt_two
  have hbody : ((s.memWrite 1 (f ||| 0x80)).memWrite 2 code).Holds 0 [id, f ||| 0x80, code] := by
    intro k hk
    have hk : k < 3 := hk
    interval_cases k <;> simp [hid]
  have hbound : 0 + 3 + 2 ≤ s.params.nBuf := by omega
  refine ⟨_, (((s.memWrite 1 (f ||| 0x80)).memWrite 2 code).appendCrc 0 [id, f ||| 0x80, code]).onBus s.events .written
    s.context, rfl, ?run, ?frame⟩
  case run => calc
    _ = core.run 3 (s.onBus _ (.data (f.setWidth 32)) s.context) := run_readByte (i := 1) hlegal (by omega) hf
    _ = core.run 2 ((s.memWrite 1 (f ||| 0x80)).onBus _ .written s.context) :=
      run_writeByteOr (i := 1) hlegal (by omega) f 0x80
    _ = core.run 1 (((s.memWrite 1 (f ||| 0x80)).memWrite 2 code).onBus _ .written s.context) :=
      run_writeByte (s := s.memWrite 1 _) (i := 2) hlegal (Nat.lt_of_lt_of_le (by decide) hmin) code
    _ = core.run 0 _ := run_crcAppend (bs := [id, f ||| 0x80, code]) rfl hbound hbody
  case frame =>
    refine ⟨fun k hk => ?_, rfl, hnil⟩
    have hk : k < 5 := hk
    interval_cases k <;> simp [hid, State.appendCrc, State.onBus, lowByte_eq_lo8, highByte_eq_hi8]

/-- Settles O58: DATA takes the low half of v, U16_TO_REG stores it big-endian, and REG_TO_U16 reads it back so. -/
theorem get16ReadsWhatPut16Wrote : Obligations.Get16ReadsWhatPut16Wrote := by
  intro s i v _ hbound _ hi
  have hput : (Instr.u16ToReg i).wf = true := decide_eq_true hi
  have hget : (Instr.regToU16 i).wf = true := decide_eq_true hi
  have hasm : assemble s.params.base ((Pseudo.put16 i v).expand ++ (Pseudo.get16 i).expand) = some
      [.write (s.params.base + Reg.data.offset) 32 v,
        .write (s.params.base + Reg.cmd.offset) 32 (encode (.u16ToReg i)),
        .write (s.params.base + Reg.cmd.offset) 32 (encode (.regToU16 i)),
        .read (s.params.base + Reg.result.offset) 32] := by
    simp [Pseudo.expand, assemble, Stmt.access, hput, hget]
  have hlow : (v.setWidth 16).setWidth 32 = BitVec.ofNat 32 (v.toNat % 2 ^ 16) := by
    rw [← ofNat_mod_eq_setWidth 16 v, BitVec.setWidth_ofNat_of_le_of_lt (by decide) (Nat.mod_lt _ (by decide))]
  refine ⟨_, (((s.setData (v.setWidth 16)).writeBigEndian i (v.setWidth 16)).succeed.setResult
    ((v.setWidth 16).setWidth 32)).succeed.onBus s.events (.data ((v.setWidth 16).setWidth 32)) s.context, hasm, ?run,
    congrArg Reply.data hlow⟩
  calc
    _ = core.run 3 ((s.setData (v.setWidth 16)).onBus _ .written s.context) := run_writeData v
    _ = core.run 2 (((s.setData (v.setWidth 16)).writeBigEndian i (v.setWidth 16)).succeed.onBus _ .written
          s.context) := run_u16ToReg hput hbound
    _ = core.run 1 _ := run_regToU16 hget hbound (u16At_writeBigEndian _ i _)
    _ = core.run 0 _ := run_readReg .result

end Sys2Proof.Machine

/-! PROOFS. The family 40_crc.md: the CRC function (R81 to R84, R93 to R96) and the six commands of the CRC family (R85
to R90). An update is 8 rounds of the CRC on the accumulator with the byte in its low half (`crcStep_eq_crcRounds`), so
two updates are 16 rounds (`crcStep_crcStep`); rounds are linear and injective, and the residue facts follow. Commands
are proved on ranges whose bytes are known (`State.Holds`). -/

namespace Sys2Proof.Machine

open Sys2Proof.Claims

/-! ## Two bytes of a 16-bit value -/

/-- Bit by bit, two bytes are the second below the first. -/
theorem append_getLsbD (hi lo : Byte) (i : Nat) :
    BitVec.getLsbD (w := 16) (hi ++ lo) i = if i < 8 then lo.getLsbD i else hi.getLsbD (i - 8) :=
  BitVec.getLsbD_append

theorem append_eq_xor (hi lo : Byte) : hi ++ lo = (hi ++ 0#8) ^^^ lo.setWidth 16 := by
  apply BitVec.eq_of_getLsbD_eq (w := 16)
  intro i hi'
  rw [BitVec.getLsbD_xor, append_getLsbD, append_getLsbD, BitVec.getLsbD_setWidth]
  by_cases h : i < 8
  · simp [h, hi']
  · simp [h, BitVec.getLsbD_of_ge lo i (Nat.not_lt.1 h)]

theorem hi8_append_lo8 (v : Half) : hi8 v ++ lo8 v = v := by
  rw [← highByte_eq_hi8, ← lowByte_eq_lo8, highByte_append_lowByte]

theorem lo8_append (hi lo : Byte) : lo8 (hi ++ lo) = lo := BitVec.setWidth_append_eq_right

theorem hi8_append (hi lo : Byte) : hi8 (hi ++ lo) = hi := by
  apply BitVec.eq_of_getLsbD_eq
  intro i hi'
  rw [BitVec.getLsbD_setWidth, BitVec.getLsbD_ushiftRight, append_getLsbD, if_neg (by omega), Nat.add_sub_cancel_left,
    decide_eq_true hi', Bool.true_and]

theorem ushiftRight_eq_setWidth_hi8 (v : Half) : v >>> 8 = (hi8 v).setWidth 16 := by
  apply BitVec.eq_of_toNat_eq
  have := v.isLt
  simp only [BitVec.toNat_setWidth, BitVec.toNat_ushiftRight, Nat.shiftRight_eq_div_pow]
  omega

/-- A 16-bit value is two bytes exactly when they are its own. -/
theorem eq_append_iff {v : Half} {hi lo : Byte} : v = hi ++ lo ↔ lo = lo8 v ∧ hi = hi8 v := by
  constructor
  · rintro rfl
    exact ⟨(lo8_append hi lo).symm, (hi8_append hi lo).symm⟩
  · rintro ⟨rfl, rfl⟩
    exact (hi8_append_lo8 v).symm

/-! ## The update is 8 rounds (R81, R83) -/

/-- A byte over a zero byte is shifted down by 8 rounds. -/
theorem crcRounds_append_zero (b : Byte) : crcRounds 8 (b ++ 0#8) = b.setWidth 16 := by
  rw [crcRounds_of_low_zero 8 _ fun i hi => by simp [append_getLsbD, hi], ushiftRight_eq_setWidth_hi8, hi8_append]

/-- The rounds shift the accumulator's high byte down and take its low byte, with `b`, through the table. -/
theorem crcStep_eq_crcRounds (c : Half) (b : Byte) : crcStep c b = crcRounds 8 (c ^^^ b.setWidth 16) := by
  have hlow : ((c ^^^ b.setWidth 16) &&& 0x00FF).setWidth 8 = lo8 c ^^^ b := by
    rw [BitVec.setWidth_and, BitVec.setWidth_xor, BitVec.setWidth_setWidth_of_le b (by decide), BitVec.setWidth_eq]
    exact BitVec.and_allOnes
  have hsplit : c ^^^ b.setWidth 16 = (hi8 c ++ 0#8) ^^^ (lo8 c ^^^ b).setWidth 16 := by
    rw [BitVec.setWidth_xor, ← BitVec.xor_assoc, ← append_eq_xor, hi8_append_lo8]
  rw [hsplit, crcRounds_linear, crcRounds_append_zero, crcStep, hlow, ushiftRight_eq_setWidth_hi8,
    crcTable]

theorem serialLoop_eq_crcRounds (n : Nat) (x : Half) : serialLoop n x = crcRounds n x := by
  induction n generalizing x with
  | zero => rfl
  | succ n ih =>
    have hbit : x % 2 = 1 ↔ x.getLsbD 0 = true := by
      rw [BitVec.getLsbD, Nat.testBit_zero, decide_eq_true_iff, ← BitVec.toNat_inj]
      rfl
    simp only [serialLoop, hbit, ih]
    rfl

/-- The CRC of the source's first body (R81), which the examples of CRC_BUF and FRAME_CHECK use again. -/
theorem crcSeeded_readRequest : crcSeeded [0x01, 0x03, 0x00, 0x00, 0x00, 0x01] = 0x0A84 := by decide

/-- Settles O13: the table form is the definition, and 8 rounds are the loop; the vectors are computed. -/
theorem crcStepIsTheBitSerialUpdate : Obligations.CrcStepIsTheBitSerialUpdate := by
  refine ⟨fun _ _ => rfl, fun c b => ?_, rfl, crcSeeded_readRequest, by decide⟩
  rw [serialLoop_eq_crcRounds, crcStep_eq_crcRounds]

theorem crcTableListed_eq_map : crcTableListed = (List.range 256).map fun k => crcTable (BitVec.ofNat 8 k) := by
  decide +kernel

/-- Settles O15: the list is the table over 0 .. 255, so its entry at k is the one for k; the table is the loop. -/
theorem theTableIsTheListedOne : Obligations.TheTableIsTheListedOne := by
  refine ⟨fun k => (serialLoop_eq_crcRounds 8 _).symm, fun k => ?entry, ?length, rfl, rfl, rfl, rfl⟩
  case entry =>
    rw [crcTableListed_eq_map, List.getElem?_map, List.getElem?_range k.isLt, Option.map_some, BitVec.ofNat_toNat,
      BitVec.setWidth_eq]
  case length => rw [crcTableListed_eq_map, List.length_map, List.length_range]

/-- Settles O17: the table and the update are rounds of the CRC, and rounds are linear. -/
theorem crcStepIsLinear : Obligations.CrcStepIsLinear := by
  constructor
  · intro x y
    rw [crcTable, BitVec.setWidth_xor, crcRounds_linear]
    rfl
  · intro c₁ c₂ b₁ b₂
    have hpair : (c₁ ^^^ c₂) ^^^ (b₁ ^^^ b₂).setWidth 16 = (c₁ ^^^ b₁.setWidth 16) ^^^ (c₂ ^^^ b₂.setWidth 16) := by
      rw [BitVec.setWidth_xor]
      ac_rfl
    simp only [crcStep_eq_crcRounds, hpair, crcRounds_linear]

/-! ## The residue: two updates are 16 rounds, and rounds are injective (R95, R96) -/

theorem crcStep_crcStep (c : Half) (lo hi : Byte) : crcStep (crcStep c lo) hi = crcRounds 16 (c ^^^ (hi ++ lo)) :=
  calc crcStep (crcStep c lo) hi
    _ = crcRounds 8 (crcRounds 8 (c ^^^ lo.setWidth 16) ^^^ crcRounds 8 (hi ++ 0#8)) := by
      rw [crcStep_eq_crcRounds, crcStep_eq_crcRounds, crcRounds_append_zero]
    _ = crcRounds 8 (crcRounds 8 (c ^^^ (hi ++ lo))) := by
      rw [← crcRounds_linear, append_eq_xor hi lo, BitVec.xor_assoc, BitVec.xor_comm (lo.setWidth 16)]
    _ = crcRounds 16 (c ^^^ (hi ++ lo)) := rfl

/-- POLY has bit 15 set, so the bit a round shifts out is the top bit it leaves. -/
theorem crcRound_getLsbD_15 (x : Half) : (crcRound x).getLsbD 15 = x.getLsbD 0 := by
  rw [crcRound_eq_xor, BitVec.getLsbD_xor, BitVec.getLsbD_ushiftRight, BitVec.getLsbD_of_ge x (1 + 15) (by decide)]
  cases x.getLsbD 0 <;> rfl

theorem crcRound_eq_zero {x : Half} (h : crcRound x = 0) : x = 0 := by
  have hlow : x.getLsbD 0 = false := by rw [← crcRound_getLsbD_15, h]; rfl
  rw [crcRound, hlow] at h
  apply BitVec.eq_of_getLsbD_eq
  intro i hi
  cases i with
  | zero => exact hlow
  | succ i =>
    have hbit := congrArg (BitVec.getLsbD · i) h
    simpa [Nat.add_comm] using hbit

theorem crcRounds_injective (n : Nat) : Function.Injective (crcRounds n) := by
  induction n with
  | zero => exact Function.injective_id
  | succ n ih =>
    intro x y h
    have hround : crcRound x = crcRound y := ih h
    have hzero : crcRound (x ^^^ y) = 0 := by
      rw [show crcRound (x ^^^ y) = crcRound x ^^^ crcRound y from crcRounds_linear 1 x y, hround, BitVec.xor_self]
      rfl
    exact BitVec.xor_eq_zero_iff.1 (crcRound_eq_zero hzero)

theorem Rz_eq_crcRounds (x : Half) : Rz x = crcRounds 16 x := by
  rw [Rz, crcStep_crcStep, hi8_append_lo8]
  exact congrArg (crcRounds 16) BitVec.zero_xor

theorem Rz_zero : Rz 0x0000 = 0x0000 := rfl

theorem Rz_injective : Function.Injective Rz := by
  rw [funext Rz_eq_crcRounds]
  exact crcRounds_injective 16

theorem crcStep_crcStep_eq_Rz (c : Half) (lo hi : Byte) : crcStep (crcStep c lo) hi = Rz (c ^^^ (hi ++ lo)) := by
  rw [crcStep_crcStep, Rz_eq_crcRounds]

/-- The two bytes that bring an accumulator to zero are its own, low byte first (R95, R96). -/
theorem crcStep_crcStep_eq_zero_iff (c : Half) (lo hi : Byte) :
    crcStep (crcStep c lo) hi = 0x0000 ↔ lo = lo8 c ∧ hi = hi8 c := by
  rw [crcStep_crcStep_eq_Rz, ← Rz_zero, Rz_injective.eq_iff, ← eq_append_iff]
  exact BitVec.xor_eq_zero_iff

theorem crcStep_crcStep_own (c : Half) : crcStep (crcStep c (lo8 c)) (hi8 c) = 0x0000 :=
  (crcStep_crcStep_eq_zero_iff c _ _).2 ⟨rfl, rfl⟩

/-- A body followed by two bytes has residue zero exactly when they are its CRC, low byte first. -/
theorem crcSeeded_append_eq_zero_iff (body : List Byte) (lo hi : Byte) :
    crcSeeded (body ++ [lo, hi]) = 0x0000 ↔ lo = lo8 (crcSeeded body) ∧ hi = hi8 (crcSeeded body) := by
  rw [crcSeeded, List.foldl_append]
  exact crcStep_crcStep_eq_zero_iff _ lo hi

/-! ## Ranges whose bytes are known -/

theorem State.holds_nil (s : State) (a : Nat) : s.Holds a [] := fun _ hk => absurd hk (Nat.not_lt_zero _)

theorem State.holds_append {s : State} {a : Nat} {bs cs : List Byte} :
    s.Holds a (bs ++ cs) ↔ s.Holds a bs ∧ s.Holds (a + bs.length) cs := by
  constructor
  · intro h
    refine ⟨fun k hk => ?_, fun k hk => ?_⟩
    · rw [h k (by rw [List.length_append]; omega), List.getElem?_append_left hk]
    · rw [Nat.add_assoc, h (bs.length + k) (by rw [List.length_append]; omega),
        List.getElem?_append_right (Nat.le_add_right _ _), Nat.add_sub_cancel_left]
  · rintro ⟨hbs, hcs⟩ k hk
    rw [List.length_append] at hk
    obtain hlt | hge := Nat.lt_or_ge k bs.length
    · rw [hbs k hlt, List.getElem?_append_left hlt]
    · rw [List.getElem?_append_right hge, ← hcs (k - bs.length) (by omega)]
      congr 1
      omega

theorem State.holds_pair {s : State} {a : Nat} {x y : Byte} :
    s.Holds a [x, y] ↔ s.fbuf.read a = some x ∧ s.fbuf.read (a + 1) = some y := by
  constructor
  · intro h
    exact ⟨h 0 Nat.zero_lt_two, h 1 Nat.one_lt_two⟩
  · rintro ⟨hx, hy⟩ k hk
    have hk : k < 2 := hk
    interval_cases k
    · exact hx
    · exact hy

theorem State.Readable.holds {s : State} {a n : Nat} (h : s.Readable a n) :
    ∃ bs : List Byte, bs.length = n ∧ s.Holds a bs := by
  obtain ⟨bs, hbs⟩ := readRange_total h
  exact ⟨bs, readRange_ok_iff.1 hbs⟩

theorem crc16From_of_holds {s : State} {a : Nat} {bs : List Byte} (c : Half) (h : s.Holds a bs) :
    crc16From s c a bs.length = .ok (bs.foldl crcStep c) := crc16From_of_bytes h

theorem crc16_of_holds {s : State} {a : Nat} {bs : List Byte} (h : s.Holds a bs) :
    crc16 s a bs.length = .ok (crcSeeded bs) := crc16From_of_bytes h

/-- A range that has a CRC is one whose bytes are known. -/
theorem holds_of_crc16_ok {s : State} {a n : Nat} {c : Half} (h : crc16 s a n = .ok c) :
    ∃ bs : List Byte, bs.length = n ∧ s.Holds a bs := by
  obtain ⟨bs, hbs, -⟩ := except_map_ok h
  exact ⟨bs, readRange_ok_iff.1 hbs⟩

/-! ## The CRC of an FBUF range (R82, R93) -/

theorem crc16From_zero (s : State) (c : Half) (i : Nat) : crc16From s c i 0 = .ok c := rfl

/-- The CRC over two ranges in a row. -/
theorem crc16From_add (s : State) (c : Half) (i m n : Nat) :
    crc16From s c i (m + n) = (crc16From s c i m).bind fun d => crc16From s d (i + m) n := by
  induction m generalizing c i with
  | zero => rw [Nat.zero_add]; rfl
  | succ m ih =>
    rw [Nat.succ_add, crc16From_succ, crc16From_succ]
    cases memRead s i with
    | error f => rfl
    | ok b =>
      rw [show i + (m + 1) = i + 1 + m by omega]
      exact ih (crcStep c b) (i + 1)

/-- Settles O14: one more byte is a range of length 1 behind the others. -/
theorem crcOfARangeIsTheLoopOverItsBytes : Obligations.CrcOfARangeIsTheLoopOverItsBytes := by
  refine ⟨crc16From_zero, fun s c i n => ?_, fun _ _ _ => rfl, fun s i => crc16From_zero s 0xFFFF i⟩
  have hone : ∀ d, crc16From s d (i + n) 1 = (memRead s (i + n)).map fun b => crcStep d b := by
    intro d
    rw [crc16From_succ]
    cases memRead s (i + n) <;> rfl
  rw [crc16From_add]
  simp only [hone]

/-! ## The commands that only write CRC (R85 to R88) -/

theorem exec_crcInit (s : State) : exec .crcInit s = .next (s.setCrc 0xFFFF).succeed := rfl

theorem exec_crcByte (b : Byte) (s : State) :
    exec (.crcByte b.toNat) s = .next (s.setCrc (crcStep s.crc b)).succeed := by
  rw [exec_of_effectOf (Nat.zero_le _) rfl, dataByte, BitVec.ofNat_toNat, BitVec.setWidth_eq]

theorem exec_crcBuf_of_bound {s : State} {a n : Nat} (hbound : a + n ≤ s.params.nBuf) :
    exec (.crcBuf a n) s = finish ((crc16 s a n).map fun c => s.setCrc c) := withinBound_le hbound

theorem exec_crcAcc_of_bound {s : State} {a n : Nat} (hbound : a + n ≤ s.params.nBuf) :
    exec (.crcAcc a n) s = finish ((crc16From s s.crc a n).map fun c => s.setCrc c) := withinBound_le hbound

/-- CRC_ACC after a command that left `d` in CRC. -/
theorem exec_crcAcc_after_setCrc {s : State} {a n : Nat} (d : Half) (hbound : a + n ≤ s.params.nBuf) :
    exec (.crcAcc a n) (s.setCrc d).succeed = finish ((crc16From s d a n).map fun c => s.setCrc c) := by
  have hsame : crc16From (s.setCrc d).succeed d a n = crc16From s d a n := crc16From_congr fun _ _ => rfl
  rw [exec_crcAcc_of_bound (s := (s.setCrc d).succeed) hbound, State.succeed_crc, State.setCrc_crc, hsame]
  cases crc16From s d a n <;> rfl

theorem exec_crcBuf_of_holds {s : State} {a : Nat} {bs : List Byte} (hbound : a + bs.length ≤ s.params.nBuf)
    (hbytes : s.Holds a bs) : exec (.crcBuf a bs.length) s = .next (s.setCrc (crcSeeded bs)).succeed := by
  rw [exec_crcBuf_of_bound hbound, crc16_of_holds hbytes]
  rfl

theorem exec_crcAcc_of_holds {s : State} {a : Nat} {bs : List Byte} (hbound : a + bs.length ≤ s.params.nBuf)
    (hbytes : s.Holds a bs) : exec (.crcAcc a bs.length) s = .next (s.setCrc (bs.foldl crcStep s.crc)).succeed := by
  rw [exec_crcAcc_of_bound hbound, crc16From_of_holds s.crc hbytes]
  rfl

theorem execAll_cons_next {i : Instr} {is : List Instr} {s t : State} (h : exec i s = .next t) :
    execAll (i :: is) s = execAll is t := by
  rw [execAll, h]

theorem execAll_singleton (i : Instr) (s : State) : execAll [i] s = exec i s := by
  rw [execAll]
  cases exec i s <;> rfl

/-- CRC_INIT and CRC_ACC are CRC_BUF (R88, R93). -/
theorem execAll_crcInit_crcAcc {s : State} {a n : Nat} (hbound : a + n ≤ s.params.nBuf) :
    execAll [.crcInit, .crcAcc a n] s = exec (.crcBuf a n) s := by
  rw [execAll_cons_next (exec_crcInit s), execAll_singleton, exec_crcAcc_after_setCrc _ hbound,
    exec_crcBuf_of_bound hbound]
  rfl

/-- A range in two pieces is one pass (R88, R93). -/
theorem execAll_crcAcc_crcAcc {s : State} {a m n : Nat} (hbound : a + m + n ≤ s.params.nBuf) :
    execAll [.crcAcc a m, .crcAcc (a + m) n] s = exec (.crcAcc a (m + n)) s := by
  rw [exec_crcAcc_of_bound (n := m + n) (by omega), crc16From_add, execAll,
    exec_crcAcc_of_bound (Nat.le_of_add_right_le hbound)]
  cases crc16From s s.crc a m with
  | error f => rfl
  | ok d => exact (execAll_singleton _ _).trans (exec_crcAcc_after_setCrc d hbound)

/-- One CRC_BYTE for each byte, after a command that left `c` in CRC. -/
theorem execAll_crcByte (s : State) (c : Half) (bs : List Byte) :
    execAll (bs.map fun b => .crcByte b.toNat) (s.setCrc c).succeed =
      .next (s.setCrc (bs.foldl crcStep c)).succeed := by
  induction bs generalizing c with
  | nil => rfl
  | cons b bs ih =>
    rw [List.map_cons, execAll_cons_next (exec_crcByte b _)]
    exact ih (crcStep c b)

/-- Settles O16: `crc16From_add`, and the same for the commands whose effect it is. -/
theorem crcComposes : Obligations.CrcComposes := by
  refine ⟨fun s c i m n => (crc16From_add s c i m n).symm, fun s a n => execAll_crcInit_crcAcc,
    fun s a bs hbytes hbound => ?_⟩
  rw [execAll_cons_next (exec_crcInit s), execAll_crcByte, exec_crcBuf_of_holds hbound hbytes]

/-! ## Command words (R61, R63) -/

theorem encode_eq_wordOf {i : Instr} (h : i.wf = true) :
    encode i = wordOf (opOf i) (fieldsOf i).1 (fieldsOf i).2 := by
  have hop : op (encode i) = opOf i := op_encode i
  have ha : opA (encode i) = (fieldsOf i).1 := opA_encode h
  have hb : opB (encode i) = (fieldsOf i).2 := opB_encode h
  apply BitVec.eq_of_toNat_eq
  have := (encode i).isLt
  rw [← hop, ← ha, ← hb, BitVec.toNat_ofNat]
  simp only [op, opA, opB]
  omega

/-- A CMD write of a command's word, written out in its fields, runs the command. -/
theorem command_wordOf {i : Instr} (h : i.wf = true) (s : State) :
    command (wordOf (opOf i) (fieldsOf i).1 (fieldsOf i).2) s = exec i s := by
  rw [← encode_eq_wordOf h, command_of_decode (decodeOfEncodeIsTheCommand i h)]

/-- Settles O21: CRC_INIT reads nothing, so a second one finds what it would write. -/
theorem crcInitSetsTheSeed : Obligations.CrcInitSetsTheSeed := by
  refine ⟨exec_crcInit, command_wordOf (i := .crcInit) rfl, fun s t h => ?_,
    fun w s hop hfields => command_of_reservedSet (.inl ⟨hop, hfields⟩) s⟩
  rw [exec_crcInit] at h
  cases h
  rfl

/-- Settles O22: CRC_BYTE is one update, and the last clause is R95. -/
theorem crcByteFeedsOneByte : Obligations.CrcByteFeedsOneByte := by
  refine ⟨exec_crcByte, fun b s => command_wordOf (i := .crcByte b.toNat) (decide_eq_true (Nat.le_of_lt_succ b.isLt)) s,
    fun w s hop hfields => command_of_reservedSet (.inr (.inl ⟨hop, hfields⟩)) s, by decide, by decide, fun s => ?_⟩
  refine ⟨_, (execAll_cons_next (exec_crcByte _ s)).trans (execAll_crcByte s _ [hi8 s.crc]), ?_⟩
  exact crcStep_crcStep_own s.crc

/-- Settles O23: the CRC of the bytes of the range, and a range without them has none. -/
theorem crcBufComputesTheCrcOfTheRange : Obligations.CrcBufComputesTheCrcOfTheRange := by
  refine ⟨fun a bs s => exec_crcBuf_of_holds, fun a n s ha hn => command_wordOf (i := .crcBuf a n)
    (decide_eq_true ⟨ha, hn⟩) s, fun a n s => exec_of_boundOf_gt (i := .crcBuf a n), fun a s ha => ?empty,
    fun a n s t hbound hunread h => ?unwritten, fun s hmin hbytes => ?vector⟩
  case empty => exact exec_crcBuf_of_holds (bs := []) ha (s.holds_nil a)
  case unwritten =>
    rw [exec_crcBuf_of_bound hbound] at h
    obtain ⟨u, heff, -⟩ := finish_next h
    obtain ⟨c, hc, -⟩ := except_map_ok heff
    obtain ⟨bs, rfl, hbytes⟩ := holds_of_crc16_ok hc
    refine hunread fun k hk hnone => ?_
    rw [hbytes k hk, List.getElem?_eq_getElem hk] at hnone
    cases hnone
  case vector =>
    obtain ⟨-, -, -, -, -, hwire⟩ := crcWireIsTheSwappedCrc
    exact ⟨_, exec_crcBuf_of_holds hmin hbytes, crcSeeded_readRequest, hwire _ crcSeeded_readRequest⟩

/-- Settles O24: the CRC of the bytes from the accumulator on; the pieces compose as in O16. -/
theorem crcAccContinuesTheAccumulator : Obligations.CrcAccContinuesTheAccumulator := by
  refine ⟨fun a bs s => exec_crcAcc_of_holds, fun a n s ha hn => command_wordOf (i := .crcAcc a n)
    (decide_eq_true ⟨ha, hn⟩) s, fun a n s => exec_of_boundOf_gt (i := .crcAcc a n), fun a s ha => ?empty,
    fun a n s => execAll_crcInit_crcAcc, fun a m n s => execAll_crcAcc_crcAcc, fun s hmin hcrc hbytes => ?vector⟩
  case empty => exact exec_crcAcc_of_holds (bs := []) ha (s.holds_nil a)
  case vector =>
    refine ⟨_, exec_crcAcc_of_holds hmin hbytes, ?_⟩
    rw [State.succeed_crc, State.setCrc_crc, hcrc]
    rfl

/-! ## CRC_APPEND (R89, R95) -/

section

variable {s t : State} {a n : Nat} {bs : List Byte}

theorem State.appendCrc_read (j : Nat) :
    (s.appendCrc a bs).fbuf.read j =
      if j = a + bs.length then some (lo8 (crcSeeded bs))
      else if j = a + bs.length + 1 then some (hi8 (crcSeeded bs))
      else s.fbuf.read j := by
  by_cases h : j = a + bs.length
  · simp [State.appendCrc, h, lowByte_eq_lo8]
  · simp [State.appendCrc, h, highByte_eq_hi8]

/-- The CRC lies behind the body. -/
theorem State.appendCrc_holds_crc : (s.appendCrc a bs).Holds (a + bs.length) [lo8 (crcSeeded bs), hi8 (crcSeeded bs)] :=
  State.holds_pair.2 ⟨by simp [State.appendCrc_read], by simp [State.appendCrc_read]⟩

/-- The frame CRC_APPEND completes: the body as it was, and its CRC. -/
theorem State.appendCrc_holds (hbytes : s.Holds a bs) :
    (s.appendCrc a bs).Holds a (bs ++ [lo8 (crcSeeded bs), hi8 (crcSeeded bs)]) := by
  refine State.holds_append.2 ⟨fun k hk => ?_, State.appendCrc_holds_crc⟩
  rw [State.appendCrc_read, if_neg (by omega), if_neg (by omega), hbytes k hk]

theorem State.appendCrc_len_toNat (hlen : bs.length ≤ 4095) : (s.appendCrc a bs).len.toNat = bs.length + 2 := by
  show (BitVec.ofNat 16 (bs.length + 2)).toNat = bs.length + 2
  rw [BitVec.toNat_ofNat]
  omega

/-- CRC_APPEND succeeds on a body whose bytes it could read. -/
theorem exec_crcAppend_next (hbound : a + n + 2 ≤ s.params.nBuf) (h : exec (.crcAppend a n) s = .next t) :
    ∃ bs : List Byte, bs.length = n ∧ s.Holds a bs ∧ t = s.appendCrc a bs := by
  obtain ⟨hgt, -⟩ | ⟨-, u, heff, -⟩ := exec_next_cases h
  · exact absurd hbound (Nat.not_le.2 hgt)
  · obtain ⟨c, hc, -⟩ := except_map_ok heff
    obtain ⟨bs, rfl, hbytes⟩ := holds_of_crc16_ok hc
    rw [exec_crcAppend_of_holds hbound hbytes] at h
    cases h
    exact ⟨bs, rfl, hbytes, rfl⟩

end

/-- Settles O18: the two bytes behind the body are its CRC, which bring it to zero. -/
theorem theResidueOfAnAppendedFrameIsZero : Obligations.TheResidueOfAnAppendedFrameIsZero := by
  refine ⟨crcStep_crcStep_own, fun a n s t hbound h => ?_⟩
  obtain ⟨bs, rfl, hbytes, rfl⟩ := exec_crcAppend_next hbound h
  have hresidue := crc16_of_holds (State.appendCrc_holds hbytes)
  rwa [(crcSeeded_append_eq_zero_iff bs _ _).2 ⟨rfl, rfl⟩, List.length_append] at hresidue

/-- Settles O25: `State.appendCrc` is the state CRC_APPEND leaves. -/
theorem crcAppendWritesTheCrcLowByteFirst : Obligations.CrcAppendWritesTheCrcLowByteFirst := by
  refine ⟨fun a bs s hlen hbound hbytes => ?bytes, fun a n s ha hn => command_wordOf (i := .crcAppend a n)
    (decide_eq_true ⟨ha, hn⟩) s, fun a n s => exec_of_boundOf_gt (i := .crcAppend a n), fun a s hbound => ?empty,
    fun s hmin hbytes => ?vector⟩
  case bytes =>
    exact ⟨_, exec_crcAppend_of_holds hbound hbytes, rfl, State.appendCrc_len_toNat hlen, State.appendCrc_read⟩
  case empty =>
    exact ⟨_, exec_crcAppend_of_holds (bs := []) hbound (s.holds_nil a), State.appendCrc_holds_crc (bs := []), rfl⟩
  case vector =>
    have hcrc : crcSeeded [0x01, 0x03, 0x02, 0x00, 0x01] = 0x8479 := by decide
    refine ⟨_, exec_crcAppend_of_holds hmin hbytes, ?_, hcrc, rfl⟩
    have hholds := State.appendCrc_holds_crc (s := s) (a := 0) (bs := [0x01, 0x03, 0x02, 0x00, 0x01])
    rwa [hcrc] at hholds

/-! ## FRAME_CHECK (R90, R96) -/

section

variable {s : State} {a : Nat} {body : List Byte} {lo hi : Byte}

/-- FRAME_CHECK on a long enough frame with the right id: the verdict on its trailing bytes. -/
theorem exec_frameCheck_of_holds (hbound : a + (body.length + 2) ≤ s.params.nBuf) (hlen : 8 ≤ body.length + 2)
    (hbytes : s.Holds a (body ++ [lo, hi])) (hid : s.fbuf.read a = some s.slaveId) :
    exec (.frameCheck a (body.length + 2)) s = .next (crcVerdict s (crcSeeded body) lo hi).succeed := by
  obtain ⟨hbody, htail⟩ := State.holds_append.1 hbytes
  obtain ⟨hlo, hhi⟩ := State.holds_pair.1 htail
  exact exec_of_effectOf hbound (frameGate_crc hlen hid (crc16_of_holds hbody) hlo hhi)

theorem exec_frameCheck_pass (hbound : a + (body.length + 2) ≤ s.params.nBuf) (hlen : 8 ≤ body.length + 2)
    (hbytes : s.Holds a (body ++ [lo8 (crcSeeded body), hi8 (crcSeeded body)]))
    (hid : s.fbuf.read a = some s.slaveId) :
    exec (.frameCheck a (body.length + 2)) s = .next { s with
      crc := crcSeeded body,
      status := { chk := .pass, cause := .noCause, err := false, errcode := .noError } } := by
  rw [exec_frameCheck_of_holds hbound hlen hbytes hid, ← lowByte_eq_lo8, ← highByte_eq_hi8, crcVerdict_pass]
  rfl

theorem exec_frameCheck_mismatch (hbound : a + (body.length + 2) ≤ s.params.nBuf) (hlen : 8 ≤ body.length + 2)
    (hbytes : s.Holds a (body ++ [lo, hi])) (hid : s.fbuf.read a = some s.slaveId)
    (hne : ¬ (lo = lo8 (crcSeeded body) ∧ hi = hi8 (crcSeeded body))) :
    exec (.frameCheck a (body.length + 2)) s = .next { s with
      crc := crcSeeded body,
      status := { chk := .invalid, cause := .crcMismatch, err := false, errcode := .noError } } := by
  rw [← lowByte_eq_lo8, ← highByte_eq_hi8] at hne
  rw [exec_frameCheck_of_holds hbound hlen hbytes hid, crcVerdict_mismatch hne]
  rfl

end

/-- The first byte of a range whose bytes are known. -/
theorem State.Holds.head {s : State} {a : Nat} {bs cs : List Byte} {b : Byte} (h : s.Holds a (bs ++ cs))
    (hhead : bs.head? = some b) : s.fbuf.read a = some b := by
  cases bs with
  | nil => cases hhead
  | cons _ bs => exact (h 0 (Nat.zero_lt_succ _)).trans hhead

theorem exec_frameCheck_short {s : State} {a n : Nat} (hbound : a + n ≤ s.params.nBuf) (hn : n < 8) :
    exec (.frameCheck a n) s =
      .next { s with status := { chk := .invalid, cause := .tooShort, err := false, errcode := .noError } } :=
  exec_of_effectOf (i := .frameCheck a n) hbound (frameGate_short hn)

theorem exec_frameCheck_wrongId {s : State} {a n : Nat} {id : Byte} (hbound : a + n ≤ s.params.nBuf) (hn : 8 ≤ n)
    (hid : s.fbuf.read a = some id) (hne : id ≠ s.slaveId) :
    exec (.frameCheck a n) s =
      .next { s with status := { chk := .notAddressed, cause := .wrongId, err := false, errcode := .noError } } :=
  exec_of_effectOf (i := .frameCheck a n) hbound (frameGate_wrongId hn hid hne)

/-- Settles O26: the branches of the gate, and the residue of a frame with the right id. -/
theorem frameCheckRunsTheValidationGate : Obligations.FrameCheckRunsTheValidationGate := by
  refine ⟨fun a n s => exec_frameCheck_short, fun a n id s => exec_frameCheck_wrongId,
    fun a body lo hi s hbound hlen hbytes hhead => ⟨?pass, ?mismatch, (crcSeeded_append_eq_zero_iff body lo hi).symm⟩,
    fun a n s ha hn => command_wordOf (i := .frameCheck a n) (decide_eq_true ⟨ha, hn⟩) s,
    fun a n s => exec_of_boundOf_gt (i := .frameCheck a n), fun s hmin hslave hbytes => ?vector⟩
  case pass =>
    rintro ⟨rfl, rfl⟩
    exact exec_frameCheck_pass hbound hlen hbytes (hbytes.head hhead)
  case mismatch => exact exec_frameCheck_mismatch hbound hlen hbytes (hbytes.head hhead)
  case vector =>
    have hid : s.fbuf.read 0 = some s.slaveId := hslave ▸ hbytes 0 (by decide)
    refine ⟨_, exec_frameCheck_pass (body := [0x01, 0x03, 0x00, 0x00, 0x00, 0x01]) hmin (by decide) ?_ hid, rfl, rfl,
      crcSeeded_readRequest⟩
    rw [crcSeeded_readRequest]
    exact hbytes

theorem crcVerdict_crc (s : State) (c : Half) (lo hi : Byte) : (crcVerdict s c lo hi).crc = c := by
  obtain ⟨_, _, heq, -⟩ := crcVerdict_cases s c lo hi
  rw [heq]
  rfl

theorem crcVerdict_chk_iff (s : State) (c : Half) (lo hi : Byte) :
    (crcVerdict s c lo hi).status.chk = .pass ↔ lo = lo8 c ∧ hi = hi8 c := by
  rw [← lowByte_eq_lo8, ← highByte_eq_hi8]
  by_cases h : lo = lowByte c ∧ hi = highByte c
  · obtain ⟨rfl, rfl⟩ := h
    rw [crcVerdict_pass]
    exact iff_of_true rfl ⟨rfl, rfl⟩
  · rw [crcVerdict_mismatch h]
    exact iff_of_false (fun hpass => by cases hpass) h

/-- A frame of two bytes or more ends in two bytes. -/
theorem exists_append_pair {bs : List Byte} (h : 2 ≤ bs.length) : ∃ body lo hi, bs = body ++ [lo, hi] := by
  obtain ⟨lo, hi, hlast⟩ := List.length_eq_two.1 (show (bs.drop (bs.length - 2)).length = 2 by
    rw [List.length_drop]; omega)
  exact ⟨bs.take (bs.length - 2), lo, hi, by rw [← hlast, List.take_append_drop]⟩

/-- Settles O19: the frame is a body and two bytes; PASS says that they are its CRC, and so does residue zero. -/
theorem frameCheckPassesExactlyOnResidueZero : Obligations.FrameCheckPassesExactlyOnResidueZero := by
  refine ⟨fun a n s hn hbound hread hid => ?_, crcStep_crcStep_eq_Rz, Finite.injective_iff_bijective.1 Rz_injective,
    Rz_zero⟩
  obtain ⟨bs, rfl, hbytes⟩ := hread.holds
  obtain ⟨body, lo, hi, rfl⟩ := exists_append_pair (Nat.le_trans (by decide) hn)
  have hresidue : crc16 s a (body ++ [lo, hi]).length = .ok 0x0000 ↔ crcSeeded (body ++ [lo, hi]) = 0x0000 := by
    rw [crc16_of_holds hbytes, Except.ok.injEq]
  rw [hresidue, crcSeeded_append_eq_zero_iff]
  rw [List.length_append] at hn hbound ⊢
  refine ⟨_, exec_frameCheck_of_holds hbound hn hbytes hid, crcVerdict_chk_iff s _ lo hi, ?_⟩
  rw [State.succeed_crc, crcVerdict_crc]
  exact crc16_of_holds (State.holds_append.1 hbytes).1

/-- Settles O20: the frame CRC_APPEND leaves is the body and its CRC, which the CRC register already holds. -/
theorem appendedFramesPassTheCheck : Obligations.AppendedFramesPassTheCheck := by
  intro a n s t hn hbound hid h
  obtain ⟨bs, rfl, hbytes, rfl⟩ := exec_crcAppend_next hbound h
  have hkept : (s.appendCrc a bs).fbuf.read a = some s.slaveId := by
    rw [State.appendCrc_read, if_neg (by omega), if_neg (by omega), hid]
  exact exec_frameCheck_pass (s := s.appendCrc a bs) hbound (Nat.add_le_add_right hn 2) (State.appendCrc_holds hbytes)
    hkept

end Sys2Proof.Machine

/-! PROOFS. The family 41_codec.md: the register at an FBUF index (R110), the three commands of the codec (R111 to R113)
and their round trips (R114). A register that can be read is its two bytes (`u16At_ok_iff`); the commands are proved on
registers whose values are known. -/

namespace Sys2Proof.Machine

open Sys2Proof.Claims

/-! ## The register at an index (R110) -/

theorem u16At_of_holds {s : State} {i : Nat} {hi lo : Byte} (h : s.Holds i [hi, lo]) : u16At s i = .ok (hi ++ lo) := by
  obtain ⟨hhi, hlo⟩ := State.holds_pair.1 h
  exact u16At_of_bytes hhi hlo

/-- A register has a value exactly when its high byte and its low byte lie at the index and behind it. -/
theorem u16At_ok_iff {s : State} {i : Nat} {v : Half} : u16At s i = .ok v ↔ s.Holds i [hi8 v, lo8 v] := by
  constructor
  · intro h
    obtain ⟨hi, hhi, h⟩ := except_bind_ok h
    obtain ⟨lo, hlo, rfl⟩ := except_map_ok h
    rw [hi8_append, lo8_append]
    exact State.holds_pair.2 ⟨memRead_ok_iff.1 hhi, memRead_ok_iff.1 hlo⟩
  · intro h
    rw [u16At_of_holds h, hi8_append_lo8]

/-- Settles O27: the value is the two bytes side by side. -/
theorem u16AtIsBigEndian : Obligations.U16AtIsBigEndian :=
  fun _ _ b₀ b₁ _ h => ⟨b₀ ++ b₁, u16At_of_holds h, hi8_append b₀ b₁, lo8_append b₀ b₁⟩

/-! ## Bytes side by side, as numbers -/

theorem toNat_append_eq_mul_add {m n : Nat} (x : BitVec m) (y : BitVec n) :
    (x ++ y).toNat = x.toNat * 2 ^ n + y.toNat := by
  rw [BitVec.toNat_append, ← Nat.shiftLeft_add_eq_or_of_lt y.isLt, Nat.shiftLeft_eq]

theorem setWidth_append_eq_ofNat (hi lo : Byte) :
    (hi ++ lo : Half).setWidth 32 = BitVec.ofNat 32 (hi.toNat * 2 ^ 8 + lo.toNat) := by
  rw [← toNat_append_eq_mul_add, BitVec.ofNat_toNat]

theorem append_halves_eq_ofNat (w x y z : Byte) :
    ((w ++ x : Half) ++ (y ++ z : Half) : Word) =
      BitVec.ofNat 32 (w.toNat * 2 ^ 24 + x.toNat * 2 ^ 16 + y.toNat * 2 ^ 8 + z.toNat) := by
  have hvalue : ((w ++ x : Half) ++ (y ++ z : Half) : Word).toNat =
      w.toNat * 2 ^ 24 + x.toNat * 2 ^ 16 + y.toNat * 2 ^ 8 + z.toNat := by
    simp only [toNat_append_eq_mul_add]
    omega
  rw [← hvalue, BitVec.ofNat_toNat, BitVec.setWidth_eq]

/-! ## REG_TO_U16 (R111) -/

/-- What the two commands that read registers leave of `s` when they succeed: RESULT, and the error fields clear. -/
theorem State.setResult_succeed (s : State) (v : Word) :
    (s.setResult v).succeed = { s with result := v, status := okStatus s.status } := rfl

/-- REG_TO_U16 succeeds on a register it could read. -/
theorem exec_regToU16_next {s t : State} {a : Nat} (hbound : a + 2 ≤ s.params.nBuf)
    (h : exec (.regToU16 a) s = .next t) :
    ∃ v, u16At s a = .ok v ∧ t = (s.setResult (v.setWidth 32)).succeed := by
  obtain ⟨hgt, -⟩ | ⟨-, u, heff, rfl⟩ := exec_next_cases h
  · exact absurd hbound (Nat.not_le.2 hgt)
  · obtain ⟨v, hv, rfl⟩ := except_map_ok heff
    exact ⟨v, hv, rfl⟩

/-- Settles O28: RESULT takes the register at the index, whose two bytes are known. -/
theorem regToU16ReadsOneBigEndianRegister : Obligations.RegToU16ReadsOneBigEndianRegister := by
  refine ⟨fun a b₀ b₁ s hbound hbytes => ?value, fun a s ha => command_wordOf (i := .regToU16 a) (decide_eq_true ha) s,
    fun w s hop hfield => command_of_reservedSet (.inr (.inr ⟨.inl hop, hfield⟩)) s,
    fun a s => exec_of_boundOf_gt (i := .regToU16 a)⟩
  case value =>
    rw [exec_regToU16_of_u16At hbound (u16At_of_holds hbytes), State.setResult_succeed, setWidth_append_eq_ofNat]

/-! ## U16_TO_REG (R112) -/

theorem State.writeBigEndian_read (s : State) (a : Nat) (v : Half) (j : Nat) :
    (s.writeBigEndian a v).fbuf.read j =
      if j = a then some (hi8 v) else if j = a + 1 then some (lo8 v) else s.fbuf.read j := by
  by_cases h : j = a
  · simp [h, highByte_eq_hi8]
  · simp [h, lowByte_eq_lo8]

/-- Writing back the value a register has changes no byte. -/
theorem State.writeBigEndian_read_of_u16At {s : State} {a : Nat} {v : Half} (h : u16At s a = .ok v) (j : Nat) :
    (s.writeBigEndian a v).fbuf.read j = s.fbuf.read j := by
  obtain ⟨hhi, hlo⟩ := State.holds_pair.1 (u16At_ok_iff.1 h)
  rw [State.writeBigEndian_read]
  split_ifs with hfirst hsecond
  · rw [hfirst, hhi]
  · rw [hsecond, hlo]
  · rfl

/-- Settles O29: `State.writeBigEndian` of DATA is what U16_TO_REG stores. -/
theorem u16ToRegWritesOneBigEndianRegister : Obligations.U16ToRegWritesOneBigEndianRegister :=
  ⟨fun a s hbound => ⟨_, exec_u16ToReg_of_bound hbound, rfl, s.writeBigEndian_read a s.data⟩,
    fun a s ha => command_wordOf (i := .u16ToReg a) (decide_eq_true ha) s,
    fun _ s hop hfield => command_of_reservedSet (.inr (.inr ⟨.inr (.inl hop), hfield⟩)) s,
    fun a _ => exec_of_boundOf_gt (i := .u16ToReg a)⟩

/-! ## F32_WORD_SWAP (R113) -/

/-- F32_WORD_SWAP on two registers whose values are known. -/
theorem exec_f32WordSwap_of_u16At {s : State} {a : Nat} {first second : Half} (hbound : a + 4 ≤ s.params.nBuf)
    (hfirst : u16At s a = .ok first) (hsecond : u16At s (a + 2) = .ok second) :
    exec (.f32WordSwap a) s = .next (s.setResult (joinRegs s.params.wordOrder first second)).succeed := by
  refine exec_of_effectOf hbound ?_
  rw [effectOf, f32At, hfirst, Except.bind, hsecond]
  rfl

theorem exec_f32WordSwap_of_holds {s : State} {a : Nat} {b₀ b₁ b₂ b₃ : Byte} (hbound : a + 4 ≤ s.params.nBuf)
    (hbytes : s.Holds a [b₀, b₁, b₂, b₃]) :
    exec (.f32WordSwap a) s = .next (s.setResult (joinRegs s.params.wordOrder (b₀ ++ b₁) (b₂ ++ b₃))).succeed := by
  obtain ⟨hfirst, hsecond⟩ := State.holds_append (bs := [b₀, b₁]) (cs := [b₂, b₃]).1 hbytes
  exact exec_f32WordSwap_of_u16At hbound (u16At_of_holds hfirst) (u16At_of_holds hsecond)

/-- Settles O30: the two registers joined in the order the parameter gives. -/
theorem f32WordSwapJoinsTwoRegisters : Obligations.F32WordSwapJoinsTwoRegisters := by
  refine ⟨fun a b₀ b₁ b₂ b₃ s hbound hbytes horder => ?low, fun a b₀ b₁ b₂ b₃ s hbound hbytes horder => ?high,
    fun a s ha => command_wordOf (i := .f32WordSwap a) (decide_eq_true ha) s,
    fun w s hop hfield => command_of_reservedSet (.inr (.inr ⟨.inr (.inr hop), hfield⟩)) s,
    fun a s => exec_of_boundOf_gt (i := .f32WordSwap a)⟩
  case low =>
    rw [exec_f32WordSwap_of_holds hbound hbytes, State.setResult_succeed, horder, joinRegs, append_halves_eq_ofNat]
  case high =>
    rw [exec_f32WordSwap_of_holds hbound hbytes, State.setResult_succeed, horder, joinRegs, append_halves_eq_ofNat]

/-! ## Round trips (R114) -/

/-- The low half of a zero-extended register is the register. -/
theorem setWidth_setWidth_half (v : Half) : (v.setWidth 32).setWidth 16 = v := by
  rw [BitVec.setWidth_setWidth_of_le _ (by decide), BitVec.setWidth_eq]

/-- Settles O31: a register written reads back as itself, writing back what was read changes no byte, and the joined
registers are the ones REG_TO_U16 reads. -/
theorem codecRoundTrips : Obligations.CodecRoundTrips := by
  refine ⟨fun a s t hbound h => ?readBack, fun a s t hbound h => ?writeBack,
    fun a s t₀ t₁ hbound horder h₀ h₁ => ?joined⟩
  case readBack =>
    rw [exec_u16ToReg_of_bound hbound] at h
    cases h
    exact ⟨_, exec_regToU16_of_u16At hbound (u16At_writeBigEndian s a s.data), rfl⟩
  case writeBack =>
    obtain ⟨v, hv, rfl⟩ := exec_regToU16_next hbound h
    refine ⟨_, _, rfl, exec_u16ToReg_of_bound hbound, fun j => ?_⟩
    rw [State.setData_data, State.succeed_result, State.setResult_result, setWidth_setWidth_half]
    exact State.writeBigEndian_read_of_u16At hv j
  case joined =>
    obtain ⟨first, hfirst, rfl⟩ := exec_regToU16_next (by omega) h₀
    obtain ⟨second, hsecond, rfl⟩ := exec_regToU16_next hbound h₁
    refine ⟨_, exec_f32WordSwap_of_u16At hbound hfirst hsecond, ?_⟩
    simp only [State.succeed_result, State.setResult_result, setWidth_setWidth_half, horder, joinRegs]

end Sys2Proof.Machine

/-! PROOFS. The family 60_exceptions.md: which error code a CMD write leaves (R131), that it leaves nothing of the error
before it (R132), which of several failing checks it reports (R133), and the events that reach no register. The codes
are read off `command_outcome`; an old error leaves no trace since R33 lists neither ERR nor ERRCODE as read. -/

namespace Sys2Proof.Machine

open Sys2Proof.Claims

/-! ## The four outcomes of a CMD write (R67, R131) -/

/-- Everything a CMD write that answers a next state can leave in ERR and ERRCODE, and when; the four exclude each
other. -/
theorem command_outcome {w : Word} {s t : State} (h : command w s = .next t) :
    (IllegalOp (op w) ∧ ¬ ReservedSet w ∧ t = failedWith s .illegalOpcode) ∨
    (¬ IllegalOp (op w) ∧ ReservedSet w ∧ t = failedWith s .reservedField) ∨
    (¬ IllegalOp (op w) ∧ ¬ ReservedSet w ∧ ¬ InBound w s.params.nBuf ∧ t = failedWith s .outOfBounds) ∨
    (¬ IllegalOp (op w) ∧ ¬ ReservedSet w ∧ InBound w s.params.nBuf ∧
      t.status.err = false ∧ t.status.errcode = .noError) := by
  obtain ⟨hillegal, hreserved, hbound, hsuccess⟩ := commandRunsItsStepsInOrder w s
  by_cases hop : IllegalOp (op w)
  · cases h.symm.trans (hillegal hop)
    exact .inl ⟨hop, fun hset => not_illegalOp_of_reservedSet hset hop, rfl⟩
  by_cases hset : ReservedSet w
  · cases h.symm.trans (hreserved hop hset)
    exact .inr (.inl ⟨hop, hset, rfl⟩)
  by_cases hin : InBound w s.params.nBuf
  · obtain ⟨i, -, hexec, hclear⟩ := hsuccess hop hset hin
    exact .inr (.inr (.inr ⟨hop, hset, hin, hclear t (hexec ▸ h)⟩))
  · cases h.symm.trans (hbound hop hset hin)
    exact .inr (.inr (.inl ⟨hop, hset, hin, rfl⟩))

/-- The causes of the three error codes: the failing check of each. -/
theorem command_errcode_iff {w : Word} {s t : State} (h : command w s = .next t) :
    (t.status.errcode = .illegalOpcode ↔ IllegalOp (op w)) ∧
    (t.status.errcode = .reservedField ↔ ReservedSet w) ∧
    (t.status.errcode = .outOfBounds ↔ ¬ IllegalOp (op w) ∧ ¬ ReservedSet w ∧ ¬ InBound w s.params.nBuf) := by
  obtain ⟨hop, hset, rfl⟩ | ⟨hop, hset, rfl⟩ | ⟨hop, hset, hin, rfl⟩ | ⟨hop, hset, hin, -, hcode⟩ :=
    command_outcome h
  · exact ⟨iff_of_true rfl hop, iff_of_false nofun hset, iff_of_false nofun fun ⟨hlegal, _⟩ => hlegal hop⟩
  · exact ⟨iff_of_false nofun hop, iff_of_true rfl hset, iff_of_false nofun fun ⟨_, hclear, _⟩ => hclear hset⟩
  · exact ⟨iff_of_false nofun hop, iff_of_false nofun hset, iff_of_true rfl ⟨hop, hset, hin⟩⟩
  · rw [hcode]
    exact ⟨iff_of_false nofun hop, iff_of_false nofun hset, iff_of_false nofun fun ⟨_, _, hout⟩ => hout hin⟩

/-- A CMD write leaves an error that changed nothing else, or none. -/
theorem command_precise {w : Word} {s t : State} (h : command w s = .next t) :
    (t.status.err = true ∧ t.status.errcode ≠ .noError ∧ t = failedWith s t.status.errcode) ∨
    (t.status.err = false ∧ t.status.errcode = .noError) := by
  obtain ⟨-, -, rfl⟩ | ⟨-, -, rfl⟩ | ⟨-, -, -, rfl⟩ | ⟨-, -, -, hclear⟩ := command_outcome h
  · exact .inl ⟨rfl, nofun, rfl⟩
  · exact .inl ⟨rfl, nofun, rfl⟩
  · exact .inl ⟨rfl, nofun, rfl⟩
  · exact .inr hclear

theorem ErrCode.bits_toNat_le (c : ErrCode) : c.bits.toNat ≤ 3 := by cases c <;> decide

/-- R65 reserves fields in five rows only. -/
theorem op_mem_of_reservedSet {w : Word} (h : ReservedSet w) : op w ∈ [0x01, 0x02, 0x10, 0x11, 0x12] := by
  obtain ⟨hop, -⟩ | ⟨hop, -⟩ | ⟨hop | hop | hop, -⟩ := h <;> rw [hop] <;> decide

/-- R47's table gives seven rows a bound. -/
theorem op_mem_of_not_inBound {w : Word} {nBuf : Nat} (h : ¬ InBound w nBuf) :
    op w ∈ [0x03, 0x04, 0x05, 0x06, 0x10, 0x11, 0x12] := by
  contrapose! h
  simp only [List.mem_cons, List.not_mem_nil, or_false, not_or] at h
  simp only [InBound]
  omega

/-- Settles O8: a code names the check that failed, and both kinds of checks are tied to rows of the opcode map. -/
theorem eachErrorCodeComesFromItsCommandsOnly : Obligations.EachErrorCodeComesFromItsCommandsOnly := by
  refine ⟨fun w s t h => ?_, rfl⟩
  obtain ⟨hillegal, hreserved, hbound⟩ := command_errcode_iff h
  refine ⟨hillegal, hreserved, fun hcode => op_mem_of_reservedSet (hreserved.1 hcode), hbound,
    fun hcode => op_mem_of_not_inBound (hbound.1 hcode).2.2, ?_, ErrCode.bits_toNat_le _, ?_⟩
  · obtain ⟨herr, hcode, -⟩ | ⟨herr, hcode⟩ := command_precise h <;> simp [herr, hcode]
  · obtain ⟨-, -, heq⟩ | ⟨herr, -⟩ := command_precise h
    · exact fun _ => heq
    · simp [herr]

/-! ## No command depends on the error before it (R132) -/

/-- The state with this ERR and this ERRCODE. -/
def State.withError (s : State) (err : Bool) (code : ErrCode) : State :=
  { s with status := { s.status with err := err, errcode := code } }

/-- R33 lists neither ERR nor ERRCODE as read by any command. -/
theorem sameReads_withError (i : Instr) (s : State) (err : Bool) (code : ErrCode) :
    SameReads i s (s.withError err code) := by
  refine ⟨rfl, ?_⟩
  cases i with
  | crcInit => trivial
  | crcByte b | u16ToReg a => rfl
  | crcBuf a n | crcAppend a n | regToU16 a | f32WordSwap a => exact fun _ _ => rfl
  | crcAcc a n => exact ⟨rfl, fun _ _ => rfl⟩
  | frameCheck a n => exact fun _ => ⟨rfl, rfl, fun _ _ _ => rfl⟩

/-- The same writes from states that differ in ERR and ERRCODE at most give one state, since success clears these. -/
theorem Writes.succeed_eq {i : Instr} {s u u' : State} {err : Bool} {code : ErrCode} (h : Writes s i u)
    (h' : Writes (s.withError err code) i u') (hsame : SameWrites i s (s.withError err code) u u') :
    u'.succeed = u.succeed := by
  cases h with
  | crcInit c | crcByte b c | crcBuf a n c | crcAcc a n c | regToU16 a v | f32WordSwap a v =>
    cases h'
    cases hsame
    rfl
  | crcAppend a n c =>
    cases h'
    obtain ⟨-, ⟨⟩, -⟩ := hsame
    rfl
  | frameCheck a n c chk cause =>
    cases h' with
    | frameCheck _ _ c' =>
      obtain ⟨⟨⟩, ⟨⟩, hcrc⟩ := hsame
      obtain rfl : c = c' := hcrc.elim id fun ⟨hc, hc'⟩ => hc.trans hc'.symm
      rfl
  | u16ToReg a => cases h'; rfl

theorem exec_withError {i : Instr} {s t : State} (err : Bool) (code : ErrCode) (h : exec i s = .next t) :
    exec i (s.withError err code) = .next t := by
  obtain ⟨hgt, rfl⟩ | ⟨hbound, u, heff, rfl⟩ := exec_next_cases h
  · exact exec_of_boundOf_gt hgt
  · obtain ⟨f, hs, -⟩ | ⟨_, u', hs, hs', hsame⟩ := effectOf_alike (sameReads_withError i s err code) <;>
      cases heff.symm.trans hs
    rw [exec_of_effectOf (s := s.withError err code) hbound hs',
      (effectOf_writes heff).succeed_eq (effectOf_writes hs') hsame]

theorem command_withError {w : Word} {s t : State} (err : Bool) (code : ErrCode) (h : command w s = .next t) :
    command w (s.withError err code) = .next t := by
  obtain ⟨e, hdec, rfl⟩ | ⟨i, hdec, hexec⟩ := command_next h
  · exact command_of_error hdec _
  · rw [command_of_decode hdec, exec_withError err code hexec]

/-- Settles O9: every outcome writes ERR and ERRCODE, and none depends on the old ones. -/
theorem commandErrorsArePreciseAndNotSticky : Obligations.CommandErrorsArePreciseAndNotSticky :=
  ⟨fun _ _ _ => command_precise, fun _ _ _ err code => command_withError err code⟩

/-! ## The first failing check (R133) -/

section

variable {o a b : Nat} (ho : o < 2 ^ 8) (ha : a < 2 ^ 12) (hb : b < 2 ^ 12)

include ho ha hb

/-- The value of a word written out in its fields: they fit, so nothing wraps. -/
theorem wordOf_toNat : (wordOf o a b).toNat = o * 2 ^ 24 + a * 2 ^ 12 + b := by
  rw [BitVec.toNat_ofNat]
  omega

theorem op_wordOf : op (wordOf o a b) = o := by
  rw [op, wordOf_toNat ho ha hb]
  omega

theorem opA_wordOf : opA (wordOf o a b) = a := by
  rw [opA, wordOf_toNat ho ha hb]
  omega

theorem opB_wordOf : opB (wordOf o a b) = b := by
  rw [opB, wordOf_toNat ho ha hb]
  omega

end

/-- CRC_MISMATCH is the verdict of the last check: a command that ends with it, no error raised, passed the two
before. -/
theorem exec_frameCheck_crcMismatch {a n : Nat} {s t : State} (h : exec (.frameCheck a n) s = .next t)
    (hcause : t.status.cause = .crcMismatch) (herr : t.status.err = false) :
    8 ≤ n ∧ s.fbuf.read a = some s.slaveId := by
  obtain ⟨-, rfl⟩ | ⟨-, u, heff, rfl⟩ := exec_next_cases h
  · cases herr
  obtain ⟨-, rfl⟩ | ⟨-, _, -, -, rfl⟩ | ⟨hn, hid, -⟩ := frameGate_ok heff
  · cases hcause
  · cases hcause
  · exact ⟨hn, hid⟩

/-- Settles O10: the check that fails first is read off the fields of the word, and within FRAME_CHECK off the gate. -/
theorem onlyTheFirstFailingCheckIsReported : Obligations.OnlyTheFirstFailingCheckIsReported := by
  refine ⟨fun o a b s hillegal ho ha hb => command_of_illegalOp ?_ s,
    fun a b s ha hb hset => command_of_reservedSet (.inl ?_) s,
    fun a b s ha hb hset => command_of_reservedSet (.inr (.inl ?_)) s,
    fun o a b s ho ha hset hb => command_of_reservedSet (.inr (.inr ?_)) s,
    fun a n s => exec_of_boundOf_gt (i := .frameCheck a n), fun a n s => exec_frameCheck_short,
    fun a n id s => exec_frameCheck_wrongId, fun a n s t => exec_frameCheck_crcMismatch⟩
  · rwa [op_wordOf ho ha hb]
  · rw [op_wordOf (by decide) ha hb, opA_wordOf (by decide) ha hb, opB_wordOf (by decide) ha hb]
    exact ⟨rfl, hset⟩
  · rw [op_wordOf (by decide) ha hb, opA_wordOf (by decide) ha hb, opB_wordOf (by decide) ha hb]
    exact ⟨rfl, hset⟩
  · have hrow : o = 0x10 ∨ o = 0x11 ∨ o = 0x12 := by simpa using ho
    rw [op_wordOf (by omega) ha hb, opB_wordOf (by omega) ha hb]
    exact ⟨hrow, hset⟩

/-! ## Events that reach no register -/

theorem not_inWindow_of_outside {p : Params} {addr : Nat} (h : addr < p.base ∨ p.base + 0x2000 ≤ addr) :
    ¬ inWindow p addr := by
  simp only [inWindow, windowSize]
  omega

/-- Settles O12: what a step does with no event, with an access of another context and with a hand-over, and where an
access outside the window ends. -/
theorem eventsThatReachNoRegister : Obligations.EventsThatReachNoRegister := by
  refine ⟨fun s => step_nil, fun s c a rest hevents hother => ?_, fun s c rest => step_event,
    fun s addr width v hout => ⟨if_neg (not_inWindow_of_outside hout), if_neg (not_inWindow_of_outside hout)⟩⟩
  rw [step_event hevents]
  exact if_neg hother

end Sys2Proof.Machine

/-! PROOFS. The family 70_reset_and_hazards.md: the values of R150's table in the state a run starts from, and the reset
event, which takes every register but CONFIG to these values and keeps the parameters. -/

namespace Sys2Proof.Machine

/-! ## The start state (R150) -/

theorem readReg_status_reset : readReg .status State.reset = 0x03 := by decide

theorem readReg_crcWire_reset : readReg .crcWire State.reset = 0xFFFF := by decide

/-- FBUF is unspecified after reset: no byte has a value. -/
theorem fbuf_read_reset (i : Nat) : State.reset.fbuf.read i = none := Memory.read_nil i

/-- Settles O52: the registers are the fields of the start state, STATUS is put together from its own. -/
theorem theStartStateHasTheTablesValues : Obligations.TheStartStateHasTheTablesValues :=
  ⟨rfl, rfl, rfl, rfl, rfl, readReg_status_reset, fbuf_read_reset⟩

/-! ## The reset event (R150) -/

theorem step_reset {s : State} {rest : List Event} (h : s.events = .reset :: rest) :
    step s = .next { s with events := rest }.resetBlock := step_event h

/-- Reset reaches every register but CONFIG, which holds the parameter N_BUF. -/
theorem readReg_resetBlock {r : Reg} (hr : r ≠ .config) (s : State) :
    readReg r s.resetBlock = readReg r State.reset := by
  cases r with
  | config => exact absurd rfl hr
  | _ => rfl

/-- N_BUF is a parameter, which reset keeps. -/
theorem readReg_config_resetBlock (s : State) : readReg .config s.resetBlock = readReg .config s := rfl

/-- Settles O51: a reset leaves the values of the start state (O52), the four fields of STATUS among them, and the
parameters. -/
theorem resetSetsTheTable : Obligations.ResetSetsTheTable := by
  intro s rest hevents
  obtain ⟨hcrc, hdata, hresult, hslaveId, hlen, hstatus, hfbuf⟩ := theStartStateHasTheTablesValues
  have hcrcWire := (readReg_resetBlock (by decide) { s with events := rest }).trans readReg_crcWire_reset
  have hstatusReg := (readReg_resetBlock (by decide) { s with events := rest }).trans hstatus
  exact ⟨_, step_reset hevents, hcrc, hcrcWire, hdata, hresult, hslaveId, hlen, hfbuf, rfl, rfl, rfl, rfl, hstatusReg,
    readReg_config_resetBlock { s with events := rest }, rfl, rfl⟩

end Sys2Proof.Machine
